-- ==== Sys2Proof/Word.lean ====
section
/-! DEFINITION. The fixed sizes of 00_scope.md R11 and the operand width of R10: a byte is 8 bits, a wire word and every
codec operand are 16 bits. All values are unsigned (R13). -/

namespace Sys2Proof

/-- A byte, u8 (R11, R13). -/
abbrev Byte := BitVec 8

/-- A wire word, a codec operand or a u16 report field (R10, R11, R13). -/
abbrev Word16 := BitVec 16

end Sys2Proof
end

