-- ==== Sys2Proof/Config.lean ====
section
/-! DEFINITION. What an integration declares (LAYOUT, CMD_TABLE, the transport's retry figures), the named presets, the
transport's serial settings, and the open parameters of the spec as opaque constants with no body. -/

namespace Sys2Proof

/-- LAYOUT, the bit layout configuration (00_scope.md R7). Its well-formedness is `Layout.wf`. -/
structure Layout where
  idBits      : Nat
  commandBits : Nat
  payloadBits : Nat
deriving DecidableEq, Repr

/-- Preset L448, the recommended value (R8). -/
def Layout.l448 : Layout := ⟨4, 4, 8⟩

/-- Preset L3310 (R8). -/
def Layout.l3310 : Layout := ⟨3, 3, 10⟩

/-- Command names, a closed tagged enumeration (R9). The source names TEST only; every other name is the integration's
own, numbered here (DESIGN CHOICE, log entry 9; safe). -/
inductive CmdName where
  | test
  | named (k : Nat)
deriving DecidableEq, Repr

/-- CMD_TABLE, a partial map from raw command codes to names (R9), as a list of its entries; `CmdTable.wf` is its form. -/
abbrev CmdTable := List (Nat × CmdName)

/-- The source's own entries: TEST = 0b101 under L3310 and nothing under any other layout (R9, N4). -/
def CmdTable.source (L : Layout) : CmdTable :=
  if L = Layout.l3310 then [(0b101, .test)] else []

/-- What is fixed when the block is integrated: LAYOUT and CMD_TABLE (R20), and the transport's POLL_MS and MAX_RETRIES
(R88). No step changes it. -/
structure Integration where
  layout     : Layout
  cmdTable   : CmdTable
  pollMs     : Nat
  maxRetries : Nat
deriving DecidableEq, Repr

/-- The integration `State.reset` names: the recommended layout (R8), the source's table, the source's figures 10 and
about 100 (R112). DESIGN CHOICE, log entry 2; unsafe. -/
def Integration.recommended : Integration :=
  { layout := Layout.l448, cmdTable := CmdTable.source Layout.l448, pollMs := 10, maxRetries := 100 }

/-- The serial line's settings (45_transport_boundary.md R89). -/
structure SerialSettings where
  baud        : Nat
  dataBits    : Nat
  parity      : Bool
  stopBits    : Nat
  flowControl : Bool
deriving DecidableEq, Repr

/-- 9600 baud, 8 data bits, no parity, 1 stop bit, no hardware flow control (R89). -/
def SerialSettings.source : SerialSettings :=
  { baud := 9600, dataBits := 8, parity := false, stopBits := 1, flowControl := false }

/-- The command sequencer's four operations (R90). -/
inductive SeqOp where
  | modeSwitch
  | channelSelect
  | powerLevel
  | reportRequest
deriving DecidableEq, Repr

/-- One element of a sequencer script: a byte send or a wait (R93). -/
inductive SeqAction where
  | send (b : Byte)
  | wait (ms : Nat)
deriving DecidableEq, Repr

/-- SEQ_SCRIPT(op, arg), open (R93, D19, N18): log entry 19. -/
opaque Config.seqScript : SeqOp → Nat → List SeqAction

/-- CHANNEL_MAP, open: the sequencer channel, if any, of a raw report `channel` (R80, D20): log entry 23. -/
opaque Config.channelMap : BitVec 4 → Option Nat

/-- POWER_MAP, open: the sequencer power level, if any, of a raw report `power_level` (R84, D20): log entry 23. -/
opaque Config.powerMap : BitVec 2 → Option Nat

/-- The environment's draw for read number `k` when no draw is listed: after how many retries the bytes are there
(R87, D15): log entry 11. -/
opaque Config.drawRetries : Nat → Nat

/-- The environment's draw for read number `k`: byte `j`, where no listed draw gives it (R87, D15): log entry 11. -/
opaque Config.drawByte : Nat → Nat → Byte

/-- Which of several codes CMD_TABLE^-1 takes for a name that has several (R52 does not say): log entry 10. -/
opaque Config.commandCodeChoice : CmdName → Nat

/-- What stands on an operand port where the spec states no value for it: by the host's line counter and the operand's
place in the line (R22, R51): log entry 27. -/
opaque Config.freeNumber : Nat → Nat → Nat

/-- What a `send` puts on the line, and what a read holds, where the spec states no bytes: by the host's line counter
(R51, R86): log entry 27. -/
opaque Config.freeBytes : Nat → List Byte

/-- Whether a branch is taken, and whether a read came back, where the spec states no condition: by the host's line
counter (R51): log entry 27. -/
opaque Config.freeChoice : Nat → Bool

end Sys2Proof
end

