-- ==== Sys2Proof/Syntax.lean ====
section
/-! DEFINITION. The four block operations (30_encoding.md R39), one constructor per row of the opcode table, each holding
exactly the operands that operation reads (R40) at their port widths (10_state.md R22). -/

namespace Sys2Proof

/-- A block operation with its operands (R39, R40). The types admit nothing else: three 16-bit operands, one 16-bit word,
exactly two bytes (R47, D8), a byte sequence of any length (D7). -/
inductive Instr where
  /-- ENCODE, `op = 0b00` (40_codec.md R53). -/
  | enc (idIn commandIn payloadIn : Word16)
  /-- DECODE_WORD, `op = 0b01` (R55). -/
  | decw (wordIn : Word16)
  /-- DECODE_BYTES, `op = 0b10`, `bytes_in[0]` first (R57). -/
  | decb (byte0 byte1 : Byte)
  /-- PARSE, `op = 0b11` (41_report_parser.md R64). -/
  | parse (frameIn : List Byte)
deriving DecidableEq, Repr

end Sys2Proof
end

