-- ==== Sys2Proof/Syntax/Script.lean ====
section
/-! DEFINITION. The host's request script as abstract syntax (30_encoding.md R51, R52; D13): requests, pseudo-operations,
host statements, labels and comments. Host variables and labels are numbered, and a literal is the number it denotes
(log entry 14). The `sequencer` line is the model's own addition (log entry 19). None of it is part of the block. -/

namespace Sys2Proof

/-- The 17 fields of the Report record (41_report_parser.md R65), as names a script may use. -/
inductive ReportField where
  | startOfFrame | transportBlock | bitErrorRate | signalPower | noisePower | packetValid | packetInvalid
  | firmwareVersion | timeSinceBoot | chipId | hwRev | channel | tbValid | txComplete | diagnostic | powerLevel | endOfFrame
deriving DecidableEq, Repr

/-- The result fields of a response (10_state.md R23), `bytes_out[k]` (R52) and `report.<field>` (R51). -/
inductive ResultField where
  | status
  | wordOut
  | bytesOut
  | bytesOutAt (k : Fin 2)
  | idOut
  | commandOut
  | payloadOut
  | commandClass
  | lenSeen
  | report
  | reportField (f : ReportField)
deriving DecidableEq, Repr

/-- `operand: a literal | rN.<result field> | tN` (R51). -/
inductive Operand where
  | lit (n : Nat)
  | result (r : Nat) (f : ResultField)
  | read (t : Nat)
deriving DecidableEq, Repr

/-- The right side of a request line, pseudo-operations (R52) among them. -/
inductive ReqStmt where
  | enc (idIn commandIn payloadIn : Operand)
  | decw (wordIn : Operand)
  | decb (byte0 byte1 : Operand)
  | parse (bytes : List Operand)
  /-- `parse <tN>`: the bytes a transport read returned. -/
  | parseRead (t : Nat)
  /-- `encn <NAME>, <id>, <payload>`. -/
  | encn (name : CmdName) (idIn payloadIn : Operand)
  /-- `decb rM.bytes_out`. -/
  | decbBytesOut (r : Nat)
deriving DecidableEq, Repr

/-- One line of a script (R51). -/
inductive Line where
  | comment
  | label (l : Nat)
  /-- `rN := <request>`. -/
  | request (n : Nat) (q : ReqStmt)
  /-- `tN := read <k>`: transport readExactly(k, timeout). R51 does not say whether the count may be an operand such as
  `rN.payload_out`: here it is a fixed number, as in the spec's own scripts (DESIGN CHOICE, log entry 14; safe). -/
  | read (n k : Nat)
  /-- `send <operand>`: transport sendBytes. -/
  | send (a : Operand)
  /-- `bok rN, <label>`. -/
  | bokResponse (n l : Nat)
  /-- `bok tN, <label>`. -/
  | bokRead (n l : Nat)
  /-- `beq <operand>, <operand>, <label>`. -/
  | beq (a b : Operand) (l : Nat)
  | jmp (l : Nat)
  | halt
  /-- A command sequencer operation with its argument (R90 to R95): log entry 19. -/
  | sequencer (op : SeqOp) (arg : Nat)
deriving DecidableEq, Repr

end Sys2Proof
end

