-- ==== Sys2Proof/WellFormed.lean ====
section
/-! DEFINITION. Well-formedness checks: LAYOUT (00_scope.md R7), CMD_TABLE (R9), an integration, and a request script
(30_encoding.md R51, R52). Every `Instr` is well formed by its types: 10_state.md R22 gives the port widths, and no
operand value is illegal (R45, R46). -/

namespace Sys2Proof

/-- A layout is well formed when its widths sum to 16 and each is at least 1 (R7). -/
def Layout.wf (L : Layout) : Bool :=
  L.idBits + L.commandBits + L.payloadBits == 16 && decide (1 ≤ L.idBits) && decide (1 ≤ L.commandBits)
    && decide (1 ≤ L.payloadBits)

/-- Codes strictly rising: the list is a partial map and has one form only. -/
def CmdTable.rising : CmdTable → Bool
  | [] => true
  | [_] => true
  | e :: f :: rest => decide (e.1 < f.1) && CmdTable.rising (f :: rest)

/-- The source's own entries are in the table: TEST = 0b101 under L3310 is fixed, every other entry is the integration's
(R9, D6). -/
def CmdTable.keepsSource (L : Layout) (T : CmdTable) : Bool :=
  (CmdTable.source L).all fun e => T.contains e

/-- CMD_TABLE maps raw codes 0 .. 2^command_bits - 1 and has the source's entries (R9). -/
def CmdTable.wf (L : Layout) (T : CmdTable) : Bool :=
  CmdTable.rising T && (T.all fun e => decide (e.1 < 2 ^ L.commandBits)) && CmdTable.keepsSource L T

/-- What boot accepts (70_reset_and_hazards.md R113 step 1): a well-formed layout and a table of its codes. -/
def Integration.wf (c : Integration) : Bool :=
  c.layout.wf && CmdTable.wf c.layout c.cmdTable

/-- Labels a script defines. -/
def Script.labels (ls : List Line) : List Nat :=
  ls.filterMap fun
    | .label l => some l
    | _ => none

/-- Labels a script branches to. -/
def Script.targets (ls : List Line) : List Nat :=
  ls.filterMap fun
    | .bokResponse _ l | .bokRead _ l | .beq _ _ l | .jmp l => some l
    | _ => none

/-- Variables rN that a line assigns. -/
def Script.responsesWritten (ls : List Line) : List Nat :=
  ls.filterMap fun
    | .request n _ => some n
    | _ => none

/-- Variables tN that a line assigns. -/
def Script.readsWritten (ls : List Line) : List Nat :=
  ls.filterMap fun
    | .read n _ => some n
    | _ => none

/-- The operands of a request. -/
def ReqStmt.operands : ReqStmt → List Operand
  | .enc a b c => [a, b, c]
  | .decw a => [a]
  | .decb a b => [a, b]
  | .parse bs => bs
  | .parseRead t => [.read t]
  | .encn _ a b => [a, b]
  | .decbBytesOut r => [.result r .bytesOut]

/-- The variables a line reads, as operands. -/
def Line.operands : Line → List Operand
  | .request _ q => q.operands
  | .send a => [a]
  | .bokResponse n _ => [.result n .status]
  | .bokRead n _ => [.read n]
  | .beq a b _ => [a, b]
  | _ => []

/-- No label is defined twice. The spec does not say what a script that defines one twice means: it is refused at load
(DESIGN CHOICE, log entry 18; safe). -/
def Script.labelsUnique (ls : List Line) : Bool :=
  decide (Script.labels ls).Nodup

/-- Every branch goes to a label of the script. -/
def Script.targetsDefined (ls : List Line) : Bool :=
  (Script.targets ls).all (Script.labels ls).contains

/-- "Each names one response or one transport result and is written once" (R51): by one line (log entry 16). -/
def Script.writtenOnce (ls : List Line) : Bool :=
  decide (Script.responsesWritten ls).Nodup && decide (Script.readsWritten ls).Nodup

/-- Every variable that is read is one that some line writes. -/
def Script.usesWritten (ls : List Line) : Bool :=
  (ls.flatMap Line.operands).all fun
    | .lit _ => true
    | .result r _ => (Script.responsesWritten ls).contains r
    | .read t => (Script.readsWritten ls).contains t

/-- A literal fits a port of `w` bits. -/
def Operand.literalFits (w : Nat) : Operand → Bool
  | .lit n => decide (n < 2 ^ w)
  | _ => true

/-- Every literal of a request fits its port (10_state.md R22). -/
def ReqStmt.literalsFit : ReqStmt → Bool
  | .enc a b c => a.literalFits 16 && b.literalFits 16 && c.literalFits 16
  | .decw a => a.literalFits 16
  | .decb a b => a.literalFits 8 && b.literalFits 8
  | .parse bs => bs.all (Operand.literalFits 8)
  | .parseRead _ => true
  | .encn _ a b => a.literalFits 16 && b.literalFits 16
  | .decbBytesOut _ => true

/-- Every literal of every request fits its port. -/
def Script.literalsFit (ls : List Line) : Bool :=
  ls.all fun
    | .request _ q => q.literalsFit
    | _ => true

/-- `encn <NAME>` has no meaning when NAME has no entry in CMD_TABLE under the layout (R52). -/
def Script.namesKnown (c : Integration) (ls : List Line) : Bool :=
  ls.all fun
    | .request _ (.encn name _ _) => c.cmdTable.any fun e => e.2 == name && decide (e.1 < 2 ^ c.layout.commandBits)
    | _ => true

/-- A script that has a meaning under an integration (R51, R52). -/
def Script.wf (c : Integration) (ls : List Line) : Bool :=
  Script.labelsUnique ls && Script.targetsDefined ls && Script.writtenOnce ls && Script.usesWritten ls
    && Script.literalsFit ls && Script.namesKnown c ls

end Sys2Proof
end

