-- ==== Sys2Proof/Decode.lean ====
section
/-! DEFINITION. The request descriptor (30_encoding.md R39, R40; 10_state.md R22): the values on the request ports, the
decoder from ports to an operation, the encoder back, and the opcode table's words. The spec gives the descriptor no
serial form: a request IS its port values (log entry 3). -/

namespace Sys2Proof

/-- The request ports (R22): `op` and every operand port. `bytes_in` is typed as two bytes (R47, D8). -/
structure Request where
  op        : BitVec 2
  idIn      : Word16
  commandIn : Word16
  payloadIn : Word16
  wordIn    : Word16
  byte0In   : Byte
  byte1In   : Byte
  frameIn   : List Byte
deriving DecidableEq, Repr

/-- Ports at zero and an empty frame, with a given operation select. -/
def Request.blank (op : BitVec 2) : Request :=
  { op := op, idIn := 0, commandIn := 0, payloadIn := 0, wordIn := 0, byte0In := 0, byte1In := 0, frameIn := [] }

/-- The `op` value of an operation (R39). -/
def opcode : Instr → BitVec 2
  | .enc _ _ _ => 0b00#2
  | .decw _ => 0b01#2
  | .decb _ _ => 0b10#2
  | .parse _ => 0b11#2

/-- The decoder. Total, and no `op` value is reserved or illegal (R46); an operation reads only its own ports (R40). -/
def decode (r : Request) : Instr :=
  match r.op.toFin with
  | 0 => .enc r.idIn r.commandIn r.payloadIn
  | 1 => .decw r.wordIn
  | 2 => .decb r.byte0In r.byte1In
  | 3 => .parse r.frameIn

/-- The encoder: the operation's `op` and its operands on their ports, every other port at zero (they are ignored,
R22). -/
def encode (i : Instr) : Request :=
  match i with
  | .enc a b c => { Request.blank (opcode i) with idIn := a, commandIn := b, payloadIn := c }
  | .decw w => { Request.blank (opcode i) with wordIn := w }
  | .decb b0 b1 => { Request.blank (opcode i) with byte0In := b0, byte1In := b1 }
  | .parse f => { Request.blank (opcode i) with frameIn := f }

/-- The request of an opcode-table word: `op` is bits 1:0; the table gives the operands no bits, so they are zero and the
frame is empty (log entry 3). -/
def Request.ofTableWord (w : Nat) : Request :=
  Request.blank (BitVec.ofNat 2 w)

/-- The decoder on an opcode-table word. `op` is all a word has, so a word with a bit above bit 1, or without room for
`op`, is no request (log entry 3). -/
def decodeTableWord (nbits w : Nat) : Option Instr :=
  if 2 ≤ nbits ∧ w < 4 then some (decode (Request.ofTableWord w)) else none

end Sys2Proof
end

