-- ==== Sys2Proof/Machine/State.lean ====
section
/-! DEFINITION. The state as plain data. The block itself holds none (10_state.md R16): every field is the static
configuration (R20), a port (R22, R23), or host-side state (R18, R24, R51, and the transport of
45_transport_boundary.md). -/

namespace Sys2Proof.Machine

/-- The Report record (41_report_parser.md R65): 17 raw unsigned fields at the widths the rule gives. -/
structure Report where
  startOfFrame    : Byte
  transportBlock  : Word16
  bitErrorRate    : Byte
  signalPower     : Byte
  noisePower      : Byte
  packetValid     : Word16
  packetInvalid   : Byte
  firmwareVersion : Byte
  timeSinceBoot   : BitVec 24
  chipId          : Word16
  hwRev           : BitVec 2
  channel         : BitVec 4
  tbValid         : BitVec 1
  txComplete      : BitVec 1
  diagnostic      : BitVec 1
  powerLevel      : BitVec 2
  endOfFrame      : Byte
deriving DecidableEq, Repr

/-- `command_class`: Known(name) or Unknown(code) (40_codec.md R56). -/
inductive CommandClass where
  | known (name : CmdName)
  | unknown (code : Word16)
deriving DecidableEq, Repr

/-- The results of DECODE_WORD and DECODE_BYTES (10_state.md R23), zero-extended to 16 bits (30_encoding.md R49;
DESIGN CHOICE, log entry 8; safe). -/
structure Decoded where
  idOut        : Word16
  commandOut   : Word16
  payloadOut   : Word16
  commandClass : CommandClass
deriving DecidableEq, Repr

/-- A response: its status and its results in one of R23's forms. The first three carry status OK, the last
LENGTH_ERROR; no other form exists (10_state.md R23, 41_report_parser.md R67). -/
inductive Response where
  /-- ENCODE: `word_out` and `bytes_out`, `bytes_out[0]` first. -/
  | encoded (wordOut : Word16) (byte0 byte1 : Byte)
  /-- DECODE_WORD and DECODE_BYTES. -/
  | decoded (d : Decoded)
  /-- PARSE, status OK. -/
  | parsed (r : Report)
  /-- PARSE, status LENGTH_ERROR: `len_seen` and no report (R66). -/
  | lengthError (lenSeen : Nat)
deriving DecidableEq, Repr

/-- The response status (60_exceptions.md R97). -/
inductive Status where
  | ok
  | lengthError
deriving DecidableEq, Repr

/-- The outcome of a transport read: all the bytes or TimeoutError, nothing in between (45_transport_boundary.md R87). -/
inductive ReadResult where
  | bytes (bs : List Byte)
  | timeoutError
deriving DecidableEq, Repr

/-- A host variable tN: how many bytes were asked for, and the outcome. -/
structure ReadRecord where
  asked  : Nat
  result : ReadResult
deriving DecidableEq, Repr

/-- One draw of the environment (R87, D15): after how many retries the full count is there, and the bytes (log entry 11). -/
structure Draw where
  retries : Nat
  bytes   : List Byte
deriving DecidableEq, Repr

/-- A request on the request ports and the host variable its response goes to. -/
structure Pending where
  dst     : Option Nat
  request : Request
deriving DecidableEq, Repr

/-- Why the machine stops with a fault. The block has no fault (60_exceptions.md R98, R99): this one is host-side. -/
inductive Fault where
  /-- A `send`, a `read` or a sequencer send before the transport is created (70_reset_and_hazards.md R113 step 2).
  Raised by the script lines that use the transport; safe (log entry 21). -/
  | transportNotSetUp
deriving DecidableEq, Repr

/-- Why something has no meaning. -/
inductive Refusal where
  /-- An instruction the model gives no meaning (none is left). Raised by `exec`'s refused arms; safe. -/
  | notModelled (mnemonic : String)
  /-- LAYOUT is not well formed: no request is served under it (00_scope.md R7, I6). Raised by every operation and by
  boot; safe (log entry 7). -/
  | illFormedLayout
  /-- CMD_TABLE is not a map of the layout's codes, or lacks the source's entry (R9, D6). Raised by boot; safe (log
  entry 9). -/
  | illFormedCmdTable
  /-- The script has no meaning (30_encoding.md R51, R52). Raised when a script is loaded; safe (log entry 18). -/
  | illFormedScript
  /-- The response in rN has no such result field (10_state.md R23). Raised by the host's lines; safe (log entry 18). -/
  | noSuchResult (n : Nat)
  /-- A literal of the script's text that does not fit its port: a port admits no other width (10_state.md R22, D3, D8), so
  no such request can be written. Raised by the host's request lines; safe (log entry 18). -/
  | literalTooWide
  /-- An operand of a port that is no number: a byte sequence, a read, a command class or a report (10_state.md R22).
  Raised by the host's request lines; safe (log entry 18). -/
  | wrongKind
  /-- `encn` of a name with no entry in CMD_TABLE (30_encoding.md R52). Raised by the host's `encn` line; safe. -/
  | unknownCommandName
  /-- A branch to a label the script does not define. Raised by the host's branch lines; safe (log entry 18). -/
  | undefinedLabel (l : Nat)
deriving DecidableEq, Repr

/-- The machine's state. No field belongs to the block. -/
structure State where
  /-- LAYOUT, CMD_TABLE, POLL_MS, MAX_RETRIES: static configuration (R20), log entry 1. -/
  cfg       : Integration
  /-- The request ports (R22), empty when no request waits. -/
  pending   : Option Pending
  /-- The last response on the response ports (R23): the model's own memory of it, log entry 6. -/
  response  : Option Response
  /-- The host's report holder (R24). -/
  holder    : Option Report
  /-- The host's script (R51). -/
  script    : List Line
  /-- The host's position counter (R18). -/
  pos       : Nat
  /-- Host variables rN (R51), by rising number. -/
  rvars     : List (Nat × Response)
  /-- Host variables tN (R51), by rising number. -/
  tvars     : List (Nat × ReadRecord)
  /-- The transport's serial settings; none before it is created (R89, R113). -/
  serial    : Option SerialSettings
  /-- Bytes the transport has sent, oldest first (R86): the model's own record. -/
  sent      : List Byte
  /-- The environment's draws for the reads to come (R87): the model's own field, log entry 11. -/
  draws     : List Draw
  /-- Reads made so far, the counter of free values: the model's own field, log entry 11. -/
  drawCount : Nat
  /-- The transport's injectable clock, in ms (R88), log entry 13. -/
  clockMs   : Nat
  /-- Lines the host has gone on from, the counter of the host's free values: the model's own field, log entry 27. -/
  lineCount : Nat
deriving DecidableEq, Repr

/-- The state after reset under an integration `c` (70_reset_and_hazards.md R111, R112): the block has nothing to reset,
`c` is whatever was declared, the holder is none, the transport is set up. The other host fields are empty (DESIGN
CHOICE, log entry 25). -/
def State.resetWith (c : Integration) : State :=
  { cfg := c, pending := none, response := none, holder := none, script := [], pos := 0, rvars := [], tvars := [],
    serial := some SerialSettings.source, sent := [], draws := [], drawCount := 0, clockMs := 0, lineCount := 0 }

/-- The state after reset under the recommended integration (R8; DESIGN CHOICE, log entry 2; unsafe). -/
def State.reset : State :=
  State.resetWith Integration.recommended

/-- A reset of a running machine: LAYOUT and CMD_TABLE are unchanged by it and the holder is none (R112). Nothing is known
of the transport's reset (N26) or of what becomes of the host's other fields: they are as after boot, the transport set up
and the line, the draws and the clock empty, whatever they were, but the counters of free values go on (DESIGN CHOICE, log
entry 28; unsafe). -/
def State.afterReset (s : State) : State :=
  { State.resetWith s.cfg with drawCount := s.drawCount, lineCount := s.lineCount }

/-- The three outcomes of a step of this machine. -/
abbrev Outcome := Host.Outcome State Fault Refusal

end Sys2Proof.Machine
end

