-- ==== Sys2Proof/Machine/Ops.lean ====
section
/-! DEFINITION. The named operations on State. The block has no registers, no memory and no trap entry (10_state.md R17,
R21; 60_exceptions.md R102): what is read and written is the host's variables, the ports, the report holder and the
transport's line. -/

namespace Sys2Proof.Machine

/-- The value of a numbered host variable, if it is written. -/
def Vars.get {α : Type} : List (Nat × α) → Nat → Option α
  | [], _ => none
  | (j, v) :: rest, k => if j = k then some v else Vars.get rest k

/-- Writes a numbered host variable, keeping the numbers strictly rising. -/
def Vars.set {α : Type} : List (Nat × α) → Nat → α → List (Nat × α)
  | [], k, v => [(k, v)]
  | (j, w) :: rest, k, v =>
    if k < j then (k, v) :: (j, w) :: rest
    else if k = j then (k, v) :: rest
    else (j, w) :: Vars.set rest k v

/-- The one form of a list of variables: numbers strictly rising. -/
abbrev Vars.Canonical {α : Type} (m : List (Nat × α)) : Prop :=
  m.Pairwise fun a b => a.1 < b.1

/-- `raise LengthError(n)`: a result value with the received length and nothing else, not a trap (00_scope.md R13,
60_exceptions.md R98). -/
def raiseLengthError (n : Nat) : Response :=
  .lengthError n

/-- The report holder after a response: replaced wholesale by a PARSE response with status OK, unchanged by every other
response (10_state.md R24). -/
def holderAfter : Response → Option Report → Option Report
  | .parsed r, _ => some r
  | .encoded _ _ _, h => h
  | .decoded _, h => h
  | .lengthError _, h => h

/-- The host's variables after a response: it goes to the variable the request line names (30_encoding.md R51). -/
def bindResponse (p : Option Pending) (r : Response) (vars : List (Nat × Response)) : List (Nat × Response) :=
  match p.bind Pending.dst with
  | some n => Vars.set vars n r
  | none => vars

/-- The block's single output for a request (00_scope.md R13 `respond`): the request leaves its ports, the response stands
on the response ports, and the host takes it (R24, R51; log entry 24). -/
def State.deliver (r : Response) (s : State) : State :=
  { s with
    pending := none
    response := some r
    holder := holderAfter r s.holder
    rvars := bindResponse s.pending r s.rvars }

/-- Serves a request with a response, under a well-formed layout only: no request is served under another (00_scope.md
R7, I6). -/
def State.serve (r : Response) (s : State) : Outcome :=
  if s.cfg.layout.wf then .next (s.deliver r) else .refused .illFormedLayout

/-- The host goes on with the script's line `p` (R18), which has free values of its own (log entry 27). -/
def State.goto (p : Nat) (s : State) : State :=
  { s with pos := p, lineCount := s.lineCount + 1 }

/-- The host goes on with the next line. -/
def State.advance (s : State) : State :=
  s.goto (s.pos + 1)

/-- The host puts a request on the request ports; its response is for variable `dst` (R22, R51). -/
def State.issue (dst : Option Nat) (r : Request) (s : State) : State :=
  { s with pending := some { dst := dst, request := r } }

/-- The host binds a read's outcome to the variable tN (R51). -/
def State.bindRead (n : Nat) (r : ReadRecord) (s : State) : State :=
  { s with tvars := Vars.set s.tvars n r }

/-- Bytes leave on the line, first byte first (45_transport_boundary.md R86). -/
def State.putOnLine (bs : List Byte) (s : State) : State :=
  { s with sent := s.sent ++ bs }

/-- The transport's injectable clock moves on (R88; log entry 13). -/
def State.sleep (ms : Nat) (s : State) : State :=
  { s with clockMs := s.clockMs + ms }

/-- One of the environment's draws is used up (R87). -/
def State.useDraw (s : State) : State :=
  { s with draws := s.draws.tail, drawCount := s.drawCount + 1 }

end Sys2Proof.Machine
end

