-- ==== Sys2Proof/Machine/Boot.lean ====
section
/-! DEFINITION. Boot (70_reset_and_hazards.md R113) and the loading of a host script. These are what the outside world
does to the machine before its first step; `step` takes none of them. -/

namespace Sys2Proof.Machine

/-- Boot step 1: the integration declares LAYOUT and CMD_TABLE. An ill-formed layout is refused when the block is
configured (00_scope.md R7, I6). The transport is not created yet. -/
def declareIntegration (c : Integration) : Outcome :=
  if c.layout.wf then
    if CmdTable.wf c.layout c.cmdTable then .next { State.resetWith c with serial := none }
    else .refused .illFormedCmdTable
  else .refused .illFormedLayout

/-- Boot step 2: the host creates the transport with the serial settings of 45_transport_boundary.md R89. -/
def createTransport (s : State) : State :=
  { s with serial := some SerialSettings.source }

/-- The host takes a new script, from its first line, with no variable written (30_encoding.md R51). A script with no
meaning is refused (log entry 18). -/
def loadScript (ls : List Line) (s : State) : Outcome :=
  if Script.wf s.cfg ls then .next { s with script := ls, pos := 0, rvars := [], tvars := [] }
  else .refused .illFormedScript

/-- Boot in the order of R113: declare, create the transport, then the host may issue requests. -/
def boot (c : Integration) (ls : List Line) : Outcome :=
  match declareIntegration c with
  | .next s => loadScript ls (createTransport s)
  | .fault r => .fault r
  | .refused r => .refused r

end Sys2Proof.Machine
end

