-- ==== Sys2Proof/Machine/Operands.lean ====
section
/-! DEFINITION. Operand assembly: the quantities derived from LAYOUT (00_scope.md R11), masking and extraction
(30_encoding.md R48, R49), big-endian fields (20_memory.md R27) and bytes of a frame (00_scope.md R13). -/

namespace Sys2Proof.Machine

/-- `id_shift = command_bits + payload_bits` (R11). -/
def idShift (L : Layout) : Nat := L.commandBits + L.payloadBits

/-- `command_shift = payload_bits` (R11). -/
def commandShift (L : Layout) : Nat := L.payloadBits

/-- `payload_shift = 0` (R11). -/
def payloadShift (_ : Layout) : Nat := 0

/-- `mask(n) = 2^n - 1`, n low one-bits (R11, R13). -/
def mask (n : Nat) : Word16 := BitVec.ofNat 16 (2 ^ n - 1)

/-- An operand cut to its field's width and moved to its place (30_encoding.md R48). -/
def placeField (v : Word16) (bits shift : Nat) : Word16 :=
  (v &&& mask bits) <<< shift

/-- A field cut out of a word as an unsigned, zero-extended value (30_encoding.md R49). -/
def cutField (w : Word16) (bits shift : Nat) : Word16 :=
  (w >>> shift) &&& mask bits

/-- `be_2`: the first byte is the more significant (20_memory.md R27). -/
def be2 (b0 b1 : Byte) : Word16 :=
  (b0.setWidth 16 <<< 8) ||| b1.setWidth 16

/-- `be_3` (20_memory.md R27). -/
def be3 (b0 b1 b2 : Byte) : BitVec 24 :=
  (b0.setWidth 24 <<< 16) ||| (b1.setWidth 24 <<< 8) ||| b2.setWidth 24

/-- A word's high byte, which goes on the line first (20_memory.md R28). -/
def highByte (w : Word16) : Byte := w.extractLsb 15 8

/-- A word's low byte (20_memory.md R28). -/
def lowByte (w : Word16) : Byte := w.extractLsb 7 0

/-- `B[k]`, counting from 0 at the first byte (00_scope.md R13). The default is never reached: PARSE reads bytes of
18-byte frames only (41_report_parser.md R66). -/
def byteAt (B : List Byte) (k : Nat) : Byte := B.getD k 0

end Sys2Proof.Machine
end

