-- ==== Sys2Proof/Machine/Codec.lean ====
section
/-! DEFINITION. The codec operations ENCODE, DECODE_WORD and DECODE_BYTES (40_codec.md). Each is a function of the
configuration and the operands alone (10_state.md R16, R26), served to the host by `State.serve`. -/

namespace Sys2Proof.Machine

/-- The wire word of a (id, command, payload) triple (40_codec.md R53, 30_encoding.md R37). -/
def encodeWord (L : Layout) (idIn commandIn payloadIn : Word16) : Word16 :=
  placeField idIn L.idBits (idShift L) ||| placeField commandIn L.commandBits (commandShift L)
    ||| placeField payloadIn L.payloadBits (payloadShift L)

/-- ENCODE's response: `word_out`, and `bytes_out` high byte first (R53, R54). -/
def encodeResponse (L : Layout) (idIn commandIn payloadIn : Word16) : Response :=
  let w := encodeWord L idIn commandIn payloadIn
  .encoded w (highByte w) (lowByte w)

/-- CMD_TABLE(c): the name of a raw code, if it has an entry (00_scope.md R9). -/
def cmdLookup (T : CmdTable) (code : Nat) : Option CmdName :=
  (T.find? fun e => e.1 == code).map Prod.snd

/-- `classify(c)` (R56): total, and an unmapped code is Unknown(c), never an error. -/
def classify (T : CmdTable) (c : Word16) : CommandClass :=
  match cmdLookup T c.toNat with
  | some name => .known name
  | none => .unknown c

/-- The message of a wire word under a layout and a command table (R55). -/
def decodeWord (L : Layout) (T : CmdTable) (w : Word16) : Decoded :=
  let commandOut := cutField w L.commandBits (commandShift L)
  { idOut := cutField w L.idBits (idShift L)
    commandOut := commandOut
    payloadOut := cutField w L.payloadBits (payloadShift L)
    commandClass := classify T commandOut }

/-- ENCODE, op 0b00 (40_codec.md R53): masks its operands, sets no flag, raises nothing (R58). -/
def execEnc (idIn commandIn payloadIn : Word16) (s : State) : Outcome :=
  s.serve (encodeResponse s.cfg.layout idIn commandIn payloadIn)

/-- DECODE_WORD, op 0b01 (R55): every word decodes (30_encoding.md R45). -/
def execDecw (wordIn : Word16) (s : State) : Outcome :=
  s.serve (.decoded (decodeWord s.cfg.layout s.cfg.cmdTable wordIn))

/-- DECODE_BYTES, op 0b10 (R57): DECODE_WORD of the big-endian word of the two bytes. -/
def execDecb (byte0 byte1 : Byte) (s : State) : Outcome :=
  s.serve (.decoded (decodeWord s.cfg.layout s.cfg.cmdTable (be2 byte0 byte1)))

end Sys2Proof.Machine
end

