-- ==== Sys2Proof/Machine/Parser.lean ====
section
/-! DEFINITION. The report parser PARSE (41_report_parser.md). -/

namespace Sys2Proof.Machine

/-- The report of an 18-byte frame (41_report_parser.md R64, R69 to R85; 30_encoding.md R41 to R43). Reserved bits and
marker bytes are not looked at (R44, R68). -/
def reportOf (B : List Byte) : Report :=
  { startOfFrame    := byteAt B 0
    transportBlock  := be2 (byteAt B 1) (byteAt B 2)
    bitErrorRate    := byteAt B 3
    signalPower     := byteAt B 4
    noisePower      := byteAt B 5
    packetValid     := be2 (byteAt B 6) (byteAt B 7)
    packetInvalid   := byteAt B 8
    firmwareVersion := byteAt B 9
    timeSinceBoot   := be3 (byteAt B 10) (byteAt B 11) (byteAt B 12)
    chipId          := be2 (byteAt B 13) (byteAt B 14)
    hwRev           := (byteAt B 15).extractLsb 1 0
    channel         := (byteAt B 15).extractLsb 5 2
    tbValid         := (byteAt B 15).extractLsb 6 6
    txComplete      := (byteAt B 15).extractLsb 7 7
    diagnostic      := (byteAt B 16).extractLsb 0 0
    powerLevel      := (byteAt B 16).extractLsb 3 2
    endOfFrame      := byteAt B 17 }

/-- PARSE's response: a complete report for exactly 18 bytes, else LengthError with no byte looked at (R64, R66, R67). -/
def parseResponse (B : List Byte) : Response :=
  if B.length = 18 then .parsed (reportOf B) else raiseLengthError B.length

/-- PARSE, op 0b11 (R64). -/
def execParse (frameIn : List Byte) (s : State) : Outcome :=
  s.serve (parseResponse frameIn)

end Sys2Proof.Machine
end

