-- ==== Sys2Proof/Machine/Dispatch.lean ====
section
/-! DEFINITION. One arm per operation of the opcode table (30_encoding.md R39). -/

namespace Sys2Proof.Machine

def exec (i : Instr) (s : State) : Host.Outcome State Fault Refusal :=
  match i with
  | .enc idIn commandIn payloadIn => Sys2Proof.Machine.execEnc idIn commandIn payloadIn s
  | .decw wordIn => Sys2Proof.Machine.execDecw wordIn s
  | .decb byte0 byte1 => Sys2Proof.Machine.execDecb byte0 byte1 s
  | .parse frameIn => Sys2Proof.Machine.execParse frameIn s

end Sys2Proof.Machine
end

