-- ==== Sys2Proof/Machine/Flags.lean ====
section
/-! DEFINITION. The block has no flags and no condition codes (10_state.md R19). The only status it produces is the
`status` of a response, which is computed here. -/

namespace Sys2Proof.Machine

/-- The status of a response (10_state.md R23, 60_exceptions.md R97). -/
def Response.status : Response → Status
  | .encoded _ _ _ => .ok
  | .decoded _ => .ok
  | .parsed _ => .ok
  | .lengthError _ => .lengthError

/-- The numeric status codes (60_exceptions.md R97, D9). -/
def Status.code : Status → Nat
  | .ok => 0
  | .lengthError => 1

end Sys2Proof.Machine
end

