-- ==== Sys2Proof/Machine/Transport.lean ====
section
/-! DEFINITION. The transport at its boundary (45_transport_boundary.md R86 to R89, R96): host side, not part of the
block. Its reads are draws of the environment (R87, D15). -/

namespace Sys2Proof.Machine

/-- `sendByte` (R86). -/
def sendByte (b : Byte) (s : State) : State :=
  s.putOnLine [b]

/-- `sendBytes` (R86). -/
def sendBytes (bs : List Byte) (s : State) : State :=
  s.putOnLine bs

/-- The bounded retry loop (R88): whether the bytes were there within `retriesLeft` retries, being there after `needed`
of them, and the ms slept (log entry 12). -/
def pollLoop (pollMs : Nat) : (retriesLeft needed : Nat) → Bool × Nat
  | _, 0 => (true, 0)
  | 0, _ + 1 => (false, 0)
  | r + 1, n + 1 => ((pollLoop pollMs r n).1, (pollLoop pollMs r n).2 + pollMs)

/-- The environment's draw for the next read: the listed one, else a free one (R87; log entry 11). -/
def nextDraw (s : State) : Draw :=
  match s.draws with
  | d :: _ => d
  | [] => { retries := Config.drawRetries s.drawCount, bytes := [] }

/-- The `n` bytes of a draw: as listed, free where the draw lists no byte (log entry 11). -/
def drawBytes (k n : Nat) (bs : List Byte) : List Byte :=
  (List.range n).map fun j => bs.getD j (Config.drawByte k j)

/-- The outcome of `readExactly(n, timeout)`: exactly `n` bytes, or TimeoutError (R87). -/
def readOutcome (n : Nat) (s : State) : ReadResult :=
  if (pollLoop s.cfg.pollMs s.cfg.maxRetries (nextDraw s).retries).1 then
    .bytes (drawBytes s.drawCount n (nextDraw s).bytes)
  else .timeoutError

/-- The state after `readExactly`: the draw is used up and the clock has moved on by the time slept (R88). -/
def afterRead (s : State) : State :=
  (s.sleep (pollLoop s.cfg.pollMs s.cfg.maxRetries (nextDraw s).retries).2).useDraw

/-- What a host step does with the transport: it stops where the transport is not created yet (70_reset_and_hazards.md
R113 step 2; log entry 21). -/
def withTransport (s : State) (o : Outcome) : Outcome :=
  match s.serial with
  | some _ => o
  | none => .fault .transportNotSetUp

end Sys2Proof.Machine
end

