-- ==== Sys2Proof/Machine/Sequencer.lean ====
section
/-! DEFINITION. The command sequencer at its boundary (45_transport_boundary.md R90 to R95): host side, not part of the
block. Its scripts are the open parameter SEQ_SCRIPT (R93, D19). -/

namespace Sys2Proof.Machine

/-- Command byte constants (R90): raw bytes on the line, not wire words. -/
def commandByte : SeqOp → Byte
  | .modeSwitch => 0x6D#8
  | .channelSelect => 0x63#8
  | .powerLevel => 0x6C#8
  | .reportRequest => 0x72#8

/-- The argument byte of channel `k` in 1 .. 12, ASCII '1'..'9' then 'a'..'c' (R91; the byte values PRESUMED, G2, log
entry 20). A channel outside has none. -/
def channelByte (k : Nat) : Option Byte :=
  if 1 ≤ k ∧ k ≤ 9 then some (BitVec.ofNat 8 (0x30 + k))
  else if 10 ≤ k ∧ k ≤ 12 then some (BitVec.ofNat 8 (0x61 + (k - 10)))
  else none

/-- The argument byte of power level `p` in 1 .. 4, ASCII '1'..'4' (R92; the byte values PRESUMED, G3, log entry 20). -/
def powerByte (p : Nat) : Option Byte :=
  if 1 ≤ p ∧ p ≤ 4 then some (BitVec.ofNat 8 (0x30 + p)) else none

/-- The sequencer's bounds checks (R91, R92). Mode switch and report request have no argument to check. -/
def sequencerAccepts : SeqOp → Nat → Bool
  | .modeSwitch, _ => true
  | .reportRequest, _ => true
  | .channelSelect, k => (channelByte k).isSome
  | .powerLevel, p => (powerByte p).isSome

/-- One element of a script: a byte send or a wait (R93). -/
def runAction (a : SeqAction) (s : State) : State :=
  match a with
  | .send b => sendByte b s
  | .wait ms => s.sleep ms

/-- A script of sends and waits, first element first (R93). -/
def runActions : List SeqAction → State → State
  | [], s => s
  | a :: rest, s => runActions rest (runAction a s)

/-- CHANNEL_MAP of a report's raw channel (41_report_parser.md R80, D20; log entry 23). -/
def sequencerChannel (r : Report) : Option Nat :=
  Config.channelMap r.channel

/-- POWER_MAP of a report's raw power level (41_report_parser.md R84, D20; log entry 23). -/
def sequencerPower (r : Report) : Option Nat :=
  Config.powerMap r.powerLevel

end Sys2Proof.Machine
end

