-- ==== Sys2Proof/Machine/HostScript.lean ====
section
/-! DEFINITION. The host: the lines of a request script (30_encoding.md R51, R52; D13). A request line forms a request and
puts it on the block's request ports; every other line is the host's own and never reaches the block. -/

namespace Sys2Proof.Machine

/-- The value of a script operand. -/
inductive Value where
  | num (n : Nat)
  /-- `word_out`: a number, and two bytes when sent (20_memory.md R28). -/
  | word (w : Word16)
  | bytes (bs : List Byte)
  /-- A read that timed out (45_transport_boundary.md R87). -/
  | timeoutError
  | cls (c : CommandClass)
  | report (r : Report)
  /-- A variable whose line has not run, or whose PARSE was not called: the spec states no value (log entry 27). -/
  | unstated
deriving DecidableEq, Repr

/-- The number a value is, if it is one. -/
def Value.number : Value → Option Nat
  | .num n => some n
  | .word w => some w.toNat
  | .bytes _ => none
  | .timeoutError => none
  | .cls _ => none
  | .report _ => none
  | .unstated => none

/-- Equality of `beq` where R51 gives it: numbers by value, byte sequences, command classes and reports by their contents
(log entry 14). A transport result is its bytes or TimeoutError (45_transport_boundary.md R87), so TimeoutError is equal to
TimeoutError and to no byte sequence. None where the spec states no outcome: values of two other kinds, a variable not
written (log entries 14 and 27). -/
def Value.equal (a b : Value) : Option Bool :=
  match a.number, b.number with
  | some m, some n => some (m == n)
  | _, _ =>
    match a, b with
    | .bytes x, .bytes y => some (x == y)
    | .timeoutError, .timeoutError => some true
    | .bytes _, .timeoutError => some false
    | .timeoutError, .bytes _ => some false
    | .cls x, .cls y => some (x == y)
    | .report x, .report y => some (x == y)
    | _, _ => none

/-- A field of the report (41_report_parser.md R65), as an unsigned number. -/
def reportField (r : Report) : ReportField → Nat
  | .startOfFrame => r.startOfFrame.toNat
  | .transportBlock => r.transportBlock.toNat
  | .bitErrorRate => r.bitErrorRate.toNat
  | .signalPower => r.signalPower.toNat
  | .noisePower => r.noisePower.toNat
  | .packetValid => r.packetValid.toNat
  | .packetInvalid => r.packetInvalid.toNat
  | .firmwareVersion => r.firmwareVersion.toNat
  | .timeSinceBoot => r.timeSinceBoot.toNat
  | .chipId => r.chipId.toNat
  | .hwRev => r.hwRev.toNat
  | .channel => r.channel.toNat
  | .tbValid => r.tbValid.toNat
  | .txComplete => r.txComplete.toNat
  | .diagnostic => r.diagnostic.toNat
  | .powerLevel => r.powerLevel.toNat
  | .endOfFrame => r.endOfFrame.toNat

/-- `rN.<result field>` (10_state.md R23): a response has the fields of its operation and no other. -/
def resultField (resp : Response) (f : ResultField) : Option Value :=
  match f, resp with
  | .status, r => some (.num r.status.code)
  | .wordOut, .encoded w _ _ => some (.word w)
  | .bytesOut, .encoded _ b0 b1 => some (.bytes [b0, b1])
  | .bytesOutAt k, .encoded _ b0 b1 => some (.num (if k = 0 then b0 else b1).toNat)
  | .idOut, .decoded d => some (.num d.idOut.toNat)
  | .commandOut, .decoded d => some (.num d.commandOut.toNat)
  | .payloadOut, .decoded d => some (.num d.payloadOut.toNat)
  | .commandClass, .decoded d => some (.cls d.commandClass)
  | .report, .parsed r => some (.report r)
  | .reportField g, .parsed r => some (.num (reportField r g))
  | .lenSeen, .lengthError n => some (.num n)
  | _, _ => none

/-- The value of a transport result: the bytes, or TimeoutError (45_transport_boundary.md R87). -/
def readValue : ReadResult → Value
  | .bytes bs => .bytes bs
  | .timeoutError => .timeoutError

/-- The value of an operand (R51). A variable not written yet has none that the spec states (log entry 27); a field the
response has not is refused (R23). -/
def evalOperand (s : State) : Operand → Except Refusal Value
  | .lit n => .ok (.num n)
  | .result r f =>
    match Vars.get s.rvars r with
    | none => .ok .unstated
    | some resp =>
      match resultField resp f with
      | some v => .ok v
      | none => .error (.noSuchResult r)
  | .read t =>
    match Vars.get s.tvars t with
    | some r => .ok (readValue r.result)
    | none => .ok .unstated

/-- The transport result a variable tN names; a free one where no read has been bound to it (log entry 27). -/
def readOf (s : State) (t : Nat) : ReadResult :=
  match Vars.get s.tvars t with
  | some r => r.result
  | none => if Config.freeChoice s.lineCount then .bytes (Config.freeBytes s.lineCount) else .timeoutError

/-- A value on a port of `w` bits (10_state.md R22), as operand number `place` of line number `k`: a number that fits is on
the port as it is. What stands there for a number that is too wide, or for a variable not written, is not stated: a free
value (log entry 27). -/
def fitPort (k place w : Nat) (v : Value) : Except Refusal (BitVec w) :=
  match v, v.number with
  | _, some n => .ok (BitVec.ofNat w (if n < 2 ^ w then n else Config.freeNumber k place))
  | .unstated, none => .ok (BitVec.ofNat w (Config.freeNumber k place))
  | _, none => .error .wrongKind

/-- Operand number `place` of a request line on a port of `w` bits. A literal that does not fit is no operand of that port
(R22, D3, D8; log entry 18), and a transport result is no number. -/
def portValue (s : State) (place w : Nat) (a : Operand) : Except Refusal (BitVec w) :=
  match a with
  | .lit n => if n < 2 ^ w then .ok (BitVec.ofNat w n) else .error .literalTooWide
  | .result r f => (evalOperand s (.result r f)).bind (fitPort s.lineCount place w)
  | .read _ => .error .wrongKind

/-- The bytes of a written-out frame, first byte first, from operand number `place` on. -/
def frameBytes (s : State) (place : Nat) : List Operand → Except Refusal (List Byte)
  | [] => .ok []
  | a :: rest =>
    (portValue s place 8 a).bind fun b => (frameBytes s (place + 1) rest).bind fun bs => .ok (b :: bs)

/-- The raw codes of a command name: CMD_TABLE^-1 (30_encoding.md R52) as the set of its codes. -/
def codesOf (c : Integration) (name : CmdName) : List Nat :=
  (List.range (2 ^ c.layout.commandBits)).filter fun code => cmdLookup c.cmdTable code == some name

/-- CMD_TABLE^-1(NAME) (R52): refused with no code, and with several codes one of them (log entry 10). -/
def commandCode (c : Integration) (name : CmdName) : Except Refusal Nat :=
  match codesOf c name with
  | [] => .error .unknownCommandName
  | [code] => .ok code
  | code :: more => .ok ((code :: more).getD (Config.commandCodeChoice name % (code :: more).length) code)

/-- The operation a request line stands for, its operands evaluated and its pseudo-operation expanded (R51, R52). None for
`parse tN` on a read that timed out: the host does not call PARSE (45_transport_boundary.md R94). -/
def formInstr (s : State) : ReqStmt → Except Refusal (Option Instr)
  | .enc a b c =>
    (portValue s 0 16 a).bind fun i =>
      (portValue s 1 16 b).bind fun k => (portValue s 2 16 c).bind fun p => .ok (some (.enc i k p))
  | .decw a => (portValue s 0 16 a).bind fun w => .ok (some (.decw w))
  | .decb a b => (portValue s 0 8 a).bind fun b0 => (portValue s 1 8 b).bind fun b1 => .ok (some (.decb b0 b1))
  | .parse bs => (frameBytes s 0 bs).bind fun B => .ok (some (.parse B))
  | .parseRead t =>
    match readOf s t with
    | .bytes bs => .ok (some (.parse bs))
    | .timeoutError => .ok none
  | .encn name a b =>
    (commandCode s.cfg name).bind fun code =>
      (portValue s 0 16 a).bind fun i =>
        (portValue s 1 16 b).bind fun p => .ok (some (.enc i (BitVec.ofNat 16 code) p))
  | .decbBytesOut r =>
    (portValue s 0 8 (.result r (.bytesOutAt 0))).bind fun b0 =>
      (portValue s 1 8 (.result r (.bytesOutAt 1))).bind fun b1 => .ok (some (.decb b0 b1))

/-- A line that goes on with a value, or has no meaning and is refused by name. -/
def onValue {α : Type} (x : Except Refusal α) (f : α → Outcome) : Outcome :=
  match x with
  | .ok a => f a
  | .error e => .refused e

/-- The position of a label (R51). loadScript refuses a label defined twice; here the first one counts (DESIGN CHOICE, log
entry 18; safe). -/
def findLabel (s : State) (l : Nat) : Option Nat :=
  s.script.findIdx? (· == .label l)

/-- A branch: to the label when it is taken, else on to the next line. -/
def branch (taken : Bool) (l : Nat) (s : State) : Outcome :=
  if taken then
    match findLabel s l with
    | some p => .next (s.goto p)
    | none => .refused (.undefinedLabel l)
  else .next s.advance

/-- What the host does with the operation of a request line: it goes onto the ports for variable `n`, or, where PARSE is not
called, the host goes on with nothing changed (45_transport_boundary.md R94). -/
def issueRequest (n : Nat) (i : Option Instr) (s : State) : State :=
  match i with
  | some i => (s.issue (some n) (encode i)).advance
  | none => s.advance

/-- `rN := <request>`: the request goes onto the ports (R51). The block serves it before the host goes on (log entry 5). -/
def hostRequest (n : Nat) (q : ReqStmt) (s : State) : Outcome :=
  onValue (formInstr s q) fun i => .next (issueRequest n i s)

/-- `tN := read <k>` (R51): transport readExactly (45_transport_boundary.md R87). -/
def hostRead (n k : Nat) (s : State) : Outcome :=
  withTransport s (.next ((afterRead s).bindRead n { asked := k, result := readOutcome k s }).advance)

/-- The report fields of 8 bits (41_report_parser.md R65). -/
def reportFieldIsByte : ReportField → Bool
  | .startOfFrame | .bitErrorRate | .signalPower | .noisePower | .packetInvalid | .firmwareVersion | .endOfFrame => true
  | .transportBlock | .packetValid | .timeSinceBoot | .chipId | .hwRev | .channel | .tbValid | .txComplete | .diagnostic
  | .powerLevel => false

/-- Operands whose number is one byte on the line: a literal (Program 2 of 95_test_vectors.md; log entry 15) and the fields
that are bytes (10_state.md R23, R65). -/
def sendsOneByte : Operand → Bool
  | .lit _ => true
  | .result _ (.bytesOutAt _) => true
  | .result _ (.reportField f) => reportFieldIsByte f
  | .result _ _ => false
  | .read _ => false

/-- The bytes a `send` of line number `k` puts on the line: a byte sequence as it is, a wire word high byte first
(20_memory.md R28), a number of one byte as that byte. For every other value R51 states no bytes: free ones (log entries 15
and 27). -/
def lineBytes (k : Nat) (a : Operand) : Value → List Byte
  | .bytes bs => bs
  | .word w => [highByte w, lowByte w]
  | .num n => if sendsOneByte a && decide (n < 256) then [BitVec.ofNat 8 n] else Config.freeBytes k
  | .timeoutError => Config.freeBytes k
  | .cls _ => Config.freeBytes k
  | .report _ => Config.freeBytes k
  | .unstated => Config.freeBytes k

/-- `send <operand>` (R51): transport sendBytes. -/
def hostSend (a : Operand) (s : State) : Outcome :=
  onValue (evalOperand s a) fun v => withTransport s (.next (sendBytes (lineBytes s.lineCount a v) s).advance)

/-- `bok rN, <label>` (R51): branch if rN.status = OK; with no response in rN, a free choice (log entry 27). -/
def hostBokResponse (n l : Nat) (s : State) : Outcome :=
  match Vars.get s.rvars n with
  | some r => branch (r.status == .ok) l s
  | none => branch (Config.freeChoice s.lineCount) l s

/-- `bok tN, <label>` (R51): branch if the read returned n bytes, not TimeoutError. -/
def hostBokRead (n l : Nat) (s : State) : Outcome :=
  branch (readOf s n != .timeoutError) l s

/-- `beq <operand>, <operand>, <label>` (R51): branch if equal; a free choice where the spec does not state whether the two
values are equal (log entry 27). -/
def hostBeq (a b : Operand) (l : Nat) (s : State) : Outcome :=
  onValue (evalOperand s a) fun x => onValue (evalOperand s b) fun y =>
    branch ((x.equal y).getD (Config.freeChoice s.lineCount)) l s

/-- A sequencer operation (45_transport_boundary.md R91 to R95; log entry 19): an out-of-range argument is silently
ignored, nothing is sent and nothing is reported. -/
def hostSequencer (op : SeqOp) (arg : Nat) (s : State) : Outcome :=
  if sequencerAccepts op arg then withTransport s (.next (runActions (Config.seqScript op arg) s).advance)
  else .next s.advance

/-- One line of the host's script (R51). `halt` stays where it is (log entry 17). -/
def hostLine (x : Line) (s : State) : Outcome :=
  match x with
  | .comment => .next s.advance
  | .label _ => .next s.advance
  | .request n q => hostRequest n q s
  | .read n k => hostRead n k s
  | .send a => hostSend a s
  | .bokResponse n l => hostBokResponse n l s
  | .bokRead n l => hostBokRead n l s
  | .beq a b l => hostBeq a b l s
  | .jmp l => branch true l s
  | .halt => .next s
  | .sequencer op arg => hostSequencer op arg s

/-- One step of the host: the line at the position counter; past the last line it has nothing left to issue and idles
(R18; log entry 17). -/
def hostStep (s : State) : Outcome :=
  match s.script[s.pos]? with
  | some x => hostLine x s
  | none => .next s

/-- The report read (45_transport_boundary.md R94, D16; log entry 26): send the report-request byte, read 18 bytes, and on
success PARSE them; on TimeoutError PARSE is not called. `got` and `done` are two labels of their own. -/
def reportReadLines (t r got done : Nat) : List Line :=
  [ .send (.lit (commandByte .reportRequest).toNat), .read t 18, .bokRead t got, .jmp done,
    .label got, .request r (.parseRead t), .label done ]

end Sys2Proof.Machine
end

