-- ==== Sys2Proof/Machine/Step.lean ====
section
/-! DEFINITION. One step of the machine. Plain data says who moves: a request on the request ports is served by the block,
which decodes it and answers it whole (20_memory.md R33); with none there, the host moves (log entry 5). -/

namespace Sys2Proof.Machine

/-- One step (00_scope.md R4, 10_state.md R18). -/
def step (s : State) : Host.Outcome State Fault Refusal :=
  match s.pending with
  | some p => exec (decode p.request) s
  | none => hostStep s

/-- The request of an opcode-table word on the request ports, where the block takes its next request from (log entry 4). -/
def State.withFetchWord (s : State) (_nbits w : Nat) : State :=
  s.issue none (Request.ofTableWord w)

end Sys2Proof.Machine
end

