-- ==== Sys2Proof/Safety.lean ====
section
/-! DEFINITION. The terms claims use: when a response has the form the spec gives it, the invariant of the machine, a
frame seen from the host, what a port takes, and a list of requests served one after another. -/

namespace Sys2Proof.Machine

/-- A response has the form and the widths the spec gives it under a configuration (00_scope.md R14, 10_state.md R23,
40_codec.md R54, R56, 41_report_parser.md R66). -/
def Response.Fits (c : Integration) : Response → Prop
  | .encoded w b0 b1 => b0 = w.extractLsb 15 8 ∧ b1 = w.extractLsb 7 0
  | .decoded d =>
    d.idOut.toNat < 2 ^ c.layout.idBits ∧ d.commandOut.toNat < 2 ^ c.layout.commandBits
      ∧ d.payloadOut.toNat < 2 ^ c.layout.payloadBits ∧ d.commandClass = classify c.cmdTable d.commandOut
  | .parsed _ => True
  | .lengthError n => n ≠ 18

/-- A read result is all the bytes asked for, or TimeoutError (45_transport_boundary.md R87). -/
def ReadRecord.Whole (r : ReadRecord) : Prop :=
  ∀ bs, r.result = .bytes bs → bs.length = r.asked

/-- The invariant every step keeps: the layout is well formed, the variables are in their one form, every response that
is held fits the configuration, a report on the response ports is the one in the holder, a report in a variable means that
the holder is not empty, and every read result is whole. -/
structure State.Inv (s : State) : Prop where
  layoutWf       : s.cfg.layout.wf = true
  rvarsCanonical : Vars.Canonical s.rvars
  tvarsCanonical : Vars.Canonical s.tvars
  responseFits   : ∀ r, s.response = some r → r.Fits s.cfg
  rvarsFit       : ∀ e ∈ s.rvars, Response.Fits s.cfg e.2
  holderFresh    : ∀ rep, s.response = some (.parsed rep) → s.holder = some rep
  holderFilled   : ∀ e ∈ s.rvars, ∀ rep, e.2 = .parsed rep → s.holder ≠ none
  tvarsWhole     : ∀ e ∈ s.tvars, ReadRecord.Whole e.2

/-- Requests served one after another, none lost. -/
def serveAll : List Instr → State → Outcome
  | [], s => .next s
  | i :: rest, s =>
    match exec i s with
    | .next s' => serveAll rest s'
    | .fault r => .fault r
    | .refused r => .refused r

/-- Everything that is the host's, the transport's or the environment's own and no response touches. -/
def State.SameOutsideResponse (s t : State) : Prop :=
  t.cfg = s.cfg ∧ t.script = s.script ∧ t.pos = s.pos ∧ t.tvars = s.tvars ∧ t.serial = s.serial ∧ t.sent = s.sent
    ∧ t.draws = s.draws ∧ t.drawCount = s.drawCount ∧ t.clockMs = s.clockMs ∧ t.lineCount = s.lineCount

/-- Everything that belongs to the block's side of the ports, which no host line touches. -/
def State.SameBlockSide (s t : State) : Prop :=
  t.cfg = s.cfg ∧ t.response = s.response ∧ t.holder = s.holder ∧ t.rvars = s.rvars

/-- A field that an operand names is one its response has, if there is one (10_state.md R23). -/
def HasItsField (s : State) (a : Operand) : Prop :=
  ∀ r f resp, a = .result r f → Vars.get s.rvars r = some resp → resultField resp f ≠ none

/-- An operand that a port of `w` bits takes (10_state.md R22): a literal that fits, or a field that is a number, whatever
the number, or of a response that is not there yet. -/
def PortOperand (s : State) (w : Nat) : Operand → Prop
  | .lit n => n < 2 ^ w
  | .result r f => ∀ resp, Vars.get s.rvars r = some resp → ∃ v n, resultField resp f = some v ∧ v.number = some n
  | .read _ => False

/-- A port of `w` bits holds an operand's number as it is where the number fits. -/
def OnPort (s : State) {w : Nat} (a : Operand) (x : BitVec w) : Prop :=
  ∀ v n, evalOperand s a = .ok v → v.number = some n → n < 2 ^ w → x = BitVec.ofNat w n

/-- A request line reads `x` at one of its ports, every operand before it being one its port takes. -/
def ReadsAtPort (s : State) (x : Operand) : ReqStmt → Prop
  | .enc a b c =>
    a = x ∨ (PortOperand s 16 a ∧ b = x) ∨ (PortOperand s 16 a ∧ PortOperand s 16 b ∧ c = x)
  | .decw a => a = x
  | .decb a b => a = x ∨ (PortOperand s 8 a ∧ b = x)
  | .parse as => ∃ before after, as = before ++ x :: after ∧ ∀ y ∈ before, PortOperand s 8 y
  | .parseRead _ => False
  | .encn name a b => (∃ code, commandCode s.cfg name = .ok code) ∧ (a = x ∨ (PortOperand s 16 a ∧ b = x))
  | .decbBytesOut r => .result r (.bytesOutAt 0) = x

/-- A run of `k` steps from a state meets no fault. -/
def FaultFree (k : Nat) (s : State) : Prop :=
  ∀ r, Sys2Proof.core.run k s ≠ .fault r

end Sys2Proof.Machine
end

