-- ==== Sys2Proof/Certificates/Slice0/Obligations.lean ====
section
/-! DEFINITION. The statements for the provers. Each docstring names the rule of spec/ it formalises, or says that it is
derived or rests on the model's own choice. -/

open Sys2Proof Sys2Proof.Machine

/-! ### Request descriptor and decoding -/

/-- 30_encoding.md section 2 (the `op` codes are the spec's own, D2): each `op` value selects its operation, and the four
values are all there are. -/
def Obligations.OpSelectChoosesTheOperation : Prop :=
  ∀ r : Request,
    (r.op = 0b00#2 → decode r = .enc r.idIn r.commandIn r.payloadIn) ∧
    (r.op = 0b01#2 → decode r = .decw r.wordIn) ∧
    (r.op = 0b10#2 → decode r = .decb r.byte0In r.byte1In) ∧
    (r.op = 0b11#2 → decode r = .parse r.frameIn) ∧
    (r.op = 0b00#2 ∨ r.op = 0b01#2 ∨ r.op = 0b10#2 ∨ r.op = 0b11#2)

/-- R40: an operation reads only its own operand ports. Two requests with the same `op` that agree on the ports of that
operation are the same operation, whatever their other ports hold. -/
def Obligations.OtherPortsAreIgnored : Prop :=
  ∀ r r' : Request, r.op = r'.op →
    (r.op = 0b00#2 → r.idIn = r'.idIn ∧ r.commandIn = r'.commandIn ∧ r.payloadIn = r'.payloadIn) →
    (r.op = 0b01#2 → r.wordIn = r'.wordIn) →
    (r.op = 0b10#2 → r.byte0In = r'.byte0In ∧ r.byte1In = r'.byte1In) →
    (r.op = 0b11#2 → r.frameIn = r'.frameIn) →
    decode r = decode r'

/-- Decode and encode agree for every operation with every operand value, and a request decodes to an operation exactly
when it selects it and carries its operands. -/
def Obligations.DecodeOfEncodeIsTheOperation : Prop :=
  (∀ i : Instr, decode (encode i) = i) ∧
  (∀ (r : Request) (i : Instr), decode r = i ↔
    r.op = (encode i).op ∧
    match i with
    | .enc a b c => r.idIn = a ∧ r.commandIn = b ∧ r.payloadIn = c
    | .decw w => r.wordIn = w
    | .decb b0 b1 => r.byte0In = b0 ∧ r.byte1In = b1
    | .parse f => r.frameIn = f)

/-- The opcode table's words decode to their rows' operations (the codes are the spec's own, D2; zero operands and the
refusal of other words are the model's, log entry 3). -/
def Obligations.TableWordsDecodeToTheirRows : Prop :=
  decodeTableWord 8 0b00 = some (.enc 0 0 0) ∧
  decodeTableWord 8 0b01 = some (.decw 0) ∧
  decodeTableWord 8 0b10 = some (.decb 0 0) ∧
  decodeTableWord 8 0b11 = some (.parse []) ∧
  decodeTableWord 8 0b100 = none

/-- A step runs the decoded operation: with a request on the request ports, step is exec of what the request decodes to;
with none there, step is the host's line at the position counter, and past the last line the host idles. The turn-taking
and the idling are the model's, log entries 5 and 17. -/
def Obligations.StepRunsTheDecodedOperation : Prop :=
  (∀ (s : State) (p : Pending) (i : Instr), s.pending = some p → decode p.request = i → step s = exec i s) ∧
  (∀ (s : State) (i : Instr) (dst : Option Nat), step (s.issue dst (encode i)) = exec i (s.issue dst (encode i))) ∧
  (∀ (s : State) (x : Line), s.pending = none → s.script[s.pos]? = some x → step s = hostLine x s) ∧
  (∀ s : State, s.pending = none → s.script[s.pos]? = none → step s = .next s)

/-! ### Codec -/

/-- R53, R48: ENCODE completes, its word is the OR of the masked and shifted operands, `bytes_out` is the word's high byte
and then its low byte, and the status is OK. -/
def Obligations.EncodePacksMaskedFields : Prop :=
  ∀ (s : State) (idIn commandIn payloadIn : Word16), s.cfg.layout.wf = true →
    ∃ (t : State) (w : Word16) (b0 b1 : Byte),
      exec (.enc idIn commandIn payloadIn) s = .next t ∧
      t.response = some (.encoded w b0 b1) ∧
      (Response.encoded w b0 b1).status = .ok ∧
      w.toNat =
        ((idIn.toNat &&& (2 ^ s.cfg.layout.idBits - 1)) <<< (s.cfg.layout.commandBits + s.cfg.layout.payloadBits)) |||
        ((commandIn.toNat &&& (2 ^ s.cfg.layout.commandBits - 1)) <<< s.cfg.layout.payloadBits) |||
        (payloadIn.toNat &&& (2 ^ s.cfg.layout.payloadBits - 1)) ∧
      b0.toNat = w.toNat / 256 ∧ b1.toNat = w.toNat % 256

/-- R37: the three fields of the word are contiguous and disjoint and cover all 16 bits, id high, command in the middle,
payload low. -/
def Obligations.WordFieldsCoverTheWord : Prop :=
  ∀ (s : State) (idIn commandIn payloadIn : Word16), s.cfg.layout.wf = true →
    ∃ (t : State) (w : Word16) (b0 b1 : Byte),
      exec (.enc idIn commandIn payloadIn) s = .next t ∧ t.response = some (.encoded w b0 b1) ∧
      ∀ k, k < 16 →
        w.getLsbD k =
          if k < s.cfg.layout.payloadBits then payloadIn.getLsbD k
          else if k < s.cfg.layout.commandBits + s.cfg.layout.payloadBits then
            commandIn.getLsbD (k - s.cfg.layout.payloadBits)
          else idIn.getLsbD (k - (s.cfg.layout.commandBits + s.cfg.layout.payloadBits))

/-- The corner cases of 40_codec.md section 1: zero operands give 0x0000 and all-ones operands give 0xFFFF under every
layout. -/
def Obligations.EncodeExtremesUnderEveryLayout : Prop :=
  ∀ s : State, s.cfg.layout.wf = true →
    (∃ t, exec (.enc 0 0 0) s = .next t ∧ t.response = some (.encoded 0x0000#16 0x00#8 0x00#8)) ∧
    (∃ t, exec (.enc 0xFFFF#16 0xFFFF#16 0xFFFF#16) s = .next t ∧
      t.response = some (.encoded 0xFFFF#16 0xFF#8 0xFF#8))

/-- R55, R49: DECODE_WORD completes on every word; its fields are cut from the word by shifting and masking, its command
class is that of `command_out`, and the status is OK. -/
def Obligations.DecodeWordCutsTheFields : Prop :=
  ∀ (s : State) (w : Word16), s.cfg.layout.wf = true →
    ∃ (t : State) (d : Decoded),
      exec (.decw w) s = .next t ∧ t.response = some (.decoded d) ∧ (Response.decoded d).status = .ok ∧
      d.idOut.toNat =
        (w.toNat >>> (s.cfg.layout.commandBits + s.cfg.layout.payloadBits)) &&& (2 ^ s.cfg.layout.idBits - 1) ∧
      d.commandOut.toNat = (w.toNat >>> s.cfg.layout.payloadBits) &&& (2 ^ s.cfg.layout.commandBits - 1) ∧
      d.payloadOut.toNat = w.toNat &&& (2 ^ s.cfg.layout.payloadBits - 1) ∧
      d.commandClass = classify s.cfg.cmdTable d.commandOut

/-- R57: DECODE_BYTES completes on every two bytes and answers what DECODE_WORD answers for the word whose high byte is
`bytes_in[0]` and whose low byte is `bytes_in[1]`. -/
def Obligations.DecodeBytesIsDecodeOfTheBigEndianWord : Prop :=
  ∀ (s : State) (b0 b1 : Byte) (w : Word16), s.cfg.layout.wf = true → w.toNat = b0.toNat * 256 + b1.toNat →
    ∃ (t : State) (d : Decoded),
      exec (.decb b0 b1) s = .next t ∧ exec (.decw w) s = .next t ∧ t.response = some (.decoded d)

/-- R62: DECODE_WORD of a word and DECODE_BYTES of its bytes, high byte first, answer alike in every state. -/
def Obligations.ByteOrderAgreement : Prop :=
  ∀ (s : State) (w : Word16) (b0 b1 : Byte), b0.toNat = w.toNat / 256 → b1.toNat = w.toNat % 256 →
    exec (.decw w) s = exec (.decb b0 b1) s

/-- R61: ENCODE depends only on the low bits of each operand. -/
def Obligations.EncodeDependsOnLowBitsOnly : Prop :=
  ∀ (s : State) (i c p i' c' p' : Word16), s.cfg.layout.wf = true →
    i.toNat % 2 ^ s.cfg.layout.idBits = i'.toNat % 2 ^ s.cfg.layout.idBits →
    c.toNat % 2 ^ s.cfg.layout.commandBits = c'.toNat % 2 ^ s.cfg.layout.commandBits →
    p.toNat % 2 ^ s.cfg.layout.payloadBits = p'.toNat % 2 ^ s.cfg.layout.payloadBits →
    ∃ t, exec (.enc i c p) s = .next t ∧ exec (.enc i' c' p') s = .next t

/-- R59: in-range triples come back from DECODE_WORD of ENCODE's word, and from DECODE_BYTES of its bytes, in any later
state of the same configuration. -/
def Obligations.EncodeThenDecodeReturnsTheTriple : Prop :=
  ∀ (s s' : State) (i c p : Word16), s.cfg.layout.wf = true → s'.cfg = s.cfg →
    i.toNat < 2 ^ s.cfg.layout.idBits → c.toNat < 2 ^ s.cfg.layout.commandBits →
    p.toNat < 2 ^ s.cfg.layout.payloadBits →
    ∃ (t u : State) (w : Word16) (b0 b1 : Byte) (d : Decoded),
      exec (.enc i c p) s = .next t ∧ t.response = some (.encoded w b0 b1) ∧
      exec (.decw w) s' = .next u ∧ exec (.decb b0 b1) s' = .next u ∧ u.response = some (.decoded d) ∧
      d.idOut = i ∧ d.commandOut = c ∧ d.payloadOut = p

/-- The word round trip (40_codec.md section 5, derived there): ENCODE of a word's own fields is the word, for every word
and every well-formed layout, and different words have different fields. -/
def Obligations.DecodeThenEncodeReturnsTheWord : Prop :=
  ∀ (s : State) (w : Word16), s.cfg.layout.wf = true →
    ∃ (t u : State) (d : Decoded) (b0 b1 : Byte),
      exec (.decw w) s = .next t ∧ t.response = some (.decoded d) ∧
      exec (.enc d.idOut d.commandOut d.payloadOut) t = .next u ∧ u.response = some (.encoded w b0 b1) ∧
      ∀ w' t' d', exec (.decw w') s = .next t' → t'.response = some (.decoded d') →
        d'.idOut = d.idOut → d'.commandOut = d.commandOut → d'.payloadOut = d.payloadOut → w' = w

/-- R38: the fields of a word under the two presets. -/
def Obligations.PresetFieldPositions : Prop :=
  ∀ (s : State) (w : Word16),
    (s.cfg.layout = Layout.l448 →
      ∃ (t : State) (d : Decoded), exec (.decw w) s = .next t ∧ t.response = some (.decoded d) ∧
        d.idOut = (w.extractLsb 15 12).setWidth 16 ∧ d.commandOut = (w.extractLsb 11 8).setWidth 16 ∧
        d.payloadOut = (w.extractLsb 7 0).setWidth 16) ∧
    (s.cfg.layout = Layout.l3310 →
      ∃ (t : State) (d : Decoded), exec (.decw w) s = .next t ∧ t.response = some (.decoded d) ∧
        d.idOut = (w.extractLsb 15 13).setWidth 16 ∧ d.commandOut = (w.extractLsb 12 10).setWidth 16 ∧
        d.payloadOut = (w.extractLsb 9 0).setWidth 16)

/-- Command classification (40_codec.md section 2, D6): under a well-formed table, an entry of the table gives Known with
its name, and a code with no entry gives Unknown with the code. Under L3310 the code 0b101 is TEST in every well-formed
table. -/
def Obligations.CommandClassFollowsTheTable : Prop :=
  ∀ (s : State) (w : Word16) (t : State) (d : Decoded), s.cfg.layout.wf = true →
    CmdTable.wf s.cfg.layout s.cfg.cmdTable = true → exec (.decw w) s = .next t → t.response = some (.decoded d) →
    (∀ name, (d.commandOut.toNat, name) ∈ s.cfg.cmdTable → d.commandClass = .known name) ∧
    ((∀ name, (d.commandOut.toNat, name) ∉ s.cfg.cmdTable) → d.commandClass = .unknown d.commandOut) ∧
    (s.cfg.layout = Layout.l3310 → d.commandOut.toNat = 0b101 → d.commandClass = .known .test)

/-- No layout detection (40_codec.md section 5, derived there): the word L448 gives for (7, 2, 0xFF) is read under L3310 as
(3, 4, 0x2FF), with status OK. -/
def Obligations.LayoutMismatchIsNotDetected : Prop :=
  ∀ s : State, s.cfg.layout = Layout.l448 → ∀ s' : State, s'.cfg.layout = Layout.l3310 →
    ∃ (t t' : State) (b0 b1 : Byte) (d : Decoded),
      exec (.enc 0x07#16 0x02#16 0xFF#16) s = .next t ∧ t.response = some (.encoded 0x72FF#16 b0 b1) ∧
      exec (.decw 0x72FF#16) s' = .next t' ∧ t'.response = some (.decoded d) ∧
      d.idOut = 3#16 ∧ d.commandOut = 4#16 ∧ d.payloadOut = 0x2FF#16

/-- The frame of ENCODE, DECODE_WORD and DECODE_BYTES: the holder and everything of the host's, the transport's and the
environment's stays, every variable but the one the request names keeps its value, and that one holds the response. The
variables and the request ports are the model's form of the host (log entries 5, 6 and 24). -/
def Obligations.CodecFrame : Prop :=
  ∀ (s t : State) (i : Instr),
    ((∃ a b c, i = .enc a b c) ∨ (∃ w, i = .decw w) ∨ (∃ b0 b1, i = .decb b0 b1)) → exec i s = .next t →
    s.SameOutsideResponse t ∧ t.holder = s.holder ∧ t.pending = none ∧
    (∀ n, s.pending.bind Pending.dst ≠ some n → Vars.get t.rvars n = Vars.get s.rvars n) ∧
    (∀ n, s.pending.bind Pending.dst = some n → Vars.get t.rvars n = t.response)

/-! ### Report parser -/

/-- R69, R71, R72, R73, R75, R76, R85: the one-byte fields of the report of every 18-byte frame. PARSE completes and the
holder becomes the report. That bytes 3, 4 and 5 are raw unsigned values is the spec's own choice D11. -/
def Obligations.ParseByteFields : Prop :=
  ∀ (s : State) (b0 b1 b2 b3 b4 b5 b6 b7 b8 b9 b10 b11 b12 b13 b14 b15 b16 b17 : Byte), s.cfg.layout.wf = true →
    ∃ (t : State) (r : Report),
      exec (.parse [b0, b1, b2, b3, b4, b5, b6, b7, b8, b9, b10, b11, b12, b13, b14, b15, b16, b17]) s = .next t ∧
      t.response = some (.parsed r) ∧ t.holder = some r ∧
      r.startOfFrame = b0 ∧ r.bitErrorRate = b3 ∧ r.signalPower = b4 ∧ r.noisePower = b5 ∧ r.packetInvalid = b8 ∧
      r.firmwareVersion = b9 ∧ r.endOfFrame = b17

/-- R70, R74, R77, R78: the multi-byte fields are big-endian. -/
def Obligations.ParseMultiByteFields : Prop :=
  ∀ (s : State) (b0 b1 b2 b3 b4 b5 b6 b7 b8 b9 b10 b11 b12 b13 b14 b15 b16 b17 : Byte), s.cfg.layout.wf = true →
    ∃ (t : State) (r : Report),
      exec (.parse [b0, b1, b2, b3, b4, b5, b6, b7, b8, b9, b10, b11, b12, b13, b14, b15, b16, b17]) s = .next t ∧
      t.response = some (.parsed r) ∧ t.holder = some r ∧
      r.transportBlock.toNat = b1.toNat * 256 + b2.toNat ∧
      r.packetValid.toNat = b6.toNat * 256 + b7.toNat ∧
      r.timeSinceBoot.toNat = b10.toNat * 65536 + b11.toNat * 256 + b12.toNat ∧
      r.chipId.toNat = b13.toNat * 256 + b14.toNat

/-- R42, R43, R79 to R84: the bit fields of bytes 15 and 16. The mappings of `channel` and `power_level` to the sequencer's
values are parameters applied to the raw fields: the spec's own choice D20 and the model's opaque constants, log entry 23,
on which the last two clauses rest. -/
def Obligations.ParseBitFields : Prop :=
  ∀ (s : State) (b0 b1 b2 b3 b4 b5 b6 b7 b8 b9 b10 b11 b12 b13 b14 b15 b16 b17 : Byte), s.cfg.layout.wf = true →
    ∃ (t : State) (r : Report),
      exec (.parse [b0, b1, b2, b3, b4, b5, b6, b7, b8, b9, b10, b11, b12, b13, b14, b15, b16, b17]) s = .next t ∧
      t.response = some (.parsed r) ∧ t.holder = some r ∧
      r.hwRev.toNat = b15.toNat % 4 ∧
      r.channel.toNat = b15.toNat / 4 % 16 ∧
      r.tbValid.toNat = b15.toNat / 64 % 2 ∧
      r.txComplete.toNat = b15.toNat / 128 % 2 ∧
      r.diagnostic.toNat = b16.toNat % 2 ∧
      r.powerLevel.toNat = b16.toNat / 4 % 4 ∧
      sequencerChannel r = Config.channelMap r.channel ∧ sequencerPower r = Config.powerMap r.powerLevel

/-- R68: PARSE is total on 18-byte frames, with status OK and the frame's report (whose fields ParseByteFields,
ParseMultiByteFields and ParseBitFields give), the same for the same frame whatever the state and the configuration. -/
def Obligations.ParseTotalOnEighteenBytes : Prop :=
  ∀ (B : List Byte), B.length = 18 → ∀ s : State, s.cfg.layout.wf = true →
    ∃ t, exec (.parse B) s = .next t ∧ t.response = some (.parsed (reportOf B)) ∧
      (Response.parsed (reportOf B)).status = .ok

/-- R66: a frame whose length is not 18 gives LENGTH_ERROR with the length seen and no report; the holder stays. -/
def Obligations.ParseLengthGuard : Prop :=
  ∀ (s : State) (B : List Byte), s.cfg.layout.wf = true → B.length ≠ 18 →
    ∃ t, exec (.parse B) s = .next t ∧ t.response = some (.lengthError B.length) ∧
      (Response.lengthError B.length).status = .lengthError ∧ t.holder = s.holder ∧
      (∀ B' : List Byte, B'.length = B.length → exec (.parse B') s = .next t)

/-- Reserved bits (30_encoding.md section 4, derived there): bits 1 and 7:4 of byte 16 affect nothing. -/
def Obligations.ReservedBitsAreIgnored : Prop :=
  ∀ (s : State) (b0 b1 b2 b3 b4 b5 b6 b7 b8 b9 b10 b11 b12 b13 b14 b15 b16 b16' b17 : Byte),
    s.cfg.layout.wf = true → b16 &&& 0b00001101#8 = b16' &&& 0b00001101#8 →
    ∃ t, exec (.parse [b0, b1, b2, b3, b4, b5, b6, b7, b8, b9, b10, b11, b12, b13, b14, b15, b16, b17]) s = .next t ∧
      exec (.parse [b0, b1, b2, b3, b4, b5, b6, b7, b8, b9, b10, b11, b12, b13, b14, b15, b16', b17]) s = .next t

/-- Mixed-width views (20_memory.md section 1, derived there): a multi-byte field's bytes are the frame's bytes. -/
def Obligations.ReportFieldsShowTheFrameBytes : Prop :=
  ∀ (s t : State) (r : Report) (b0 b1 b2 b3 b4 b5 b6 b7 b8 b9 b10 b11 b12 b13 b14 b15 b16 b17 : Byte),
    exec (.parse [b0, b1, b2, b3, b4, b5, b6, b7, b8, b9, b10, b11, b12, b13, b14, b15, b16, b17]) s = .next t →
    t.response = some (.parsed r) →
    r.transportBlock.extractLsb 15 8 = b1 ∧ r.transportBlock.extractLsb 7 0 = b2 ∧
    r.packetValid.extractLsb 15 8 = b6 ∧ r.packetValid.extractLsb 7 0 = b7 ∧
    r.chipId.extractLsb 15 8 = b13 ∧ r.chipId.extractLsb 7 0 = b14 ∧
    r.timeSinceBoot.extractLsb 23 16 = b10 ∧ r.timeSinceBoot.extractLsb 15 8 = b11 ∧
    r.timeSinceBoot.extractLsb 7 0 = b12

/-- The frame of PARSE: everything of the host's, the transport's and the environment's stays, every variable but the one
the request names keeps its value, that one holds the response, and the holder changes only to the report. The variables
and the request ports are the model's form of the host (log entries 5, 6 and 24). -/
def Obligations.ParseFrame : Prop :=
  ∀ (s t : State) (B : List Byte), exec (.parse B) s = .next t →
    s.SameOutsideResponse t ∧ t.pending = none ∧
    (B.length ≠ 18 → t.holder = s.holder) ∧
    (B.length = 18 → ∃ r, t.response = some (.parsed r) ∧ t.holder = some r) ∧
    (∀ n, s.pending.bind Pending.dst ≠ some n → Vars.get t.rvars n = Vars.get s.rvars n) ∧
    (∀ n, s.pending.bind Pending.dst = some n → Vars.get t.rvars n = t.response)

/-! ### Errors, holder, independence -/

/-- R24: on a PARSE response with status OK the holder becomes that report, whole; on a LENGTH_ERROR and on every other
response it is unchanged. -/
def Obligations.HolderFollowsParseResponses : Prop :=
  ∀ (s t : State) (i : Instr), exec i s = .next t →
    (∃ B r, i = .parse B ∧ B.length = 18 ∧ t.response = some (.parsed r) ∧ t.holder = some r) ∨
    (∃ B, i = .parse B ∧ B.length ≠ 18 ∧ t.response = some (.lengthError B.length) ∧ t.holder = s.holder) ∨
    ((∀ B, i ≠ .parse B) ∧ (∀ r, t.response ≠ some (.parsed r)) ∧ t.holder = s.holder)

/-- R99: LengthError is the block's only error, raised by PARSE exactly when the length is not 18; the codec raises
nothing, and no operation ever faults. -/
def Obligations.LengthErrorIsTheOnlyError : Prop :=
  ∀ (s : State) (i : Instr), (∀ f, exec i s ≠ .fault f) ∧
    ∀ t r, exec i s = .next t → t.response = some r →
      (r.status = .lengthError ↔ ∃ B, i = .parse B ∧ B.length ≠ 18 ∧ r = .lengthError B.length)

/-- After a LENGTH_ERROR the block is ready as before (60_exceptions.md section 1, R98): the next request gets the response it
would have got, and nothing outside the ports and the host variable the response goes to has changed. The ports and the
variables are the model's form of the host, log entries 5 and 6, and the host takes the response in the same step, log
entry 24. -/
def Obligations.LengthErrorChangesNothing : Prop :=
  ∀ (s : State) (B : List Byte), s.cfg.layout.wf = true → B.length ≠ 18 →
    ∃ t, exec (.parse B) s = .next t ∧ t.response = some (.lengthError B.length) ∧ s.SameOutsideResponse t ∧
      t.holder = s.holder ∧ t.pending = none ∧
      (∀ n, s.pending.bind Pending.dst ≠ some n → Vars.get t.rvars n = Vars.get s.rvars n) ∧
      (∀ n, s.pending.bind Pending.dst = some n → Vars.get t.rvars n = some (.lengthError B.length)) ∧
      ∀ i, ∃ u v, exec i t = .next u ∧ exec i s = .next v ∧ u.response = v.response

/-- R26: a response is a function of the request and the configuration; nothing else in the state affects it. -/
def Obligations.ResponseDependsOnRequestAndConfigurationOnly : Prop :=
  ∀ (s s' t : State) (i : Instr), s'.cfg = s.cfg → exec i s = .next t →
    ∃ t', exec i s' = .next t' ∧ t'.response = t.response

/-- R35: whatever requests were served before, in whatever order, each is answered, and a further request gets the
response it gets when issued alone. -/
def Obligations.AnyOrderGivesTheSameResponses : Prop :=
  ∀ (is : List Instr) (s : State), s.cfg.layout.wf = true →
    ∃ s', serveAll is s = .next s' ∧
      ∀ i, ∃ t u, exec i s' = .next t ∧ exec i s = .next u ∧ t.response = u.response

/-- R33: every request is idempotent: served again, it answers the same and leaves the holder as it was. -/
def Obligations.RequestsAreIdempotent : Prop :=
  ∀ (s t : State) (i : Instr), exec i s = .next t →
    ∃ u, exec i t = .next u ∧ u.response = t.response ∧ u.holder = t.holder

/-- Every request on the ports is answered with exactly one response (00_scope.md R4, a decision there: D1). That it takes
one step, after which the ports are free again, is the model's, log entry 5; the response goes to the variable that the
request line names (30_encoding.md section 7, D13), in that same step, which is the model's, log entry 24. -/
def Obligations.EveryRequestIsAnsweredInOneStep : Prop :=
  ∀ (s : State) (p : Pending), s.cfg.layout.wf = true → s.pending = some p →
    ∃ t r, step s = .next t ∧ t.pending = none ∧ t.response = some r ∧
      (∀ n, p.dst = some n → Vars.get t.rvars n = some r)

/-- No request is served under an ill-formed layout, and every one is under a well-formed layout (00_scope.md section 3; the
lower bound of 1 is D4; that the refusal comes at the request is the model's, log entry 7). -/
def Obligations.ServedExactlyUnderWellFormedLayouts : Prop :=
  ∀ (s : State) (i : Instr),
    (s.cfg.layout.idBits + s.cfg.layout.commandBits + s.cfg.layout.payloadBits = 16 ∧ 1 ≤ s.cfg.layout.idBits ∧
        1 ≤ s.cfg.layout.commandBits ∧ 1 ≤ s.cfg.layout.payloadBits → ∃ t, exec i s = .next t) ∧
    (¬(s.cfg.layout.idBits + s.cfg.layout.commandBits + s.cfg.layout.payloadBits = 16 ∧ 1 ≤ s.cfg.layout.idBits ∧
        1 ≤ s.cfg.layout.commandBits ∧ 1 ≤ s.cfg.layout.payloadBits) → exec i s = .refused .illFormedLayout)

/-! ### The whole machine -/

/-- The configuration is static (10_state.md section 1, D5): no step changes it. -/
def Obligations.StepsNeverChangeTheConfiguration : Prop :=
  ∀ s t : State, step s = .next t → t.cfg = s.cfg

/-- No line of the host touches the block's side: the configuration, the response ports, the holder and the variables rN
(10_state.md sections 1 and 3). -/
def Obligations.HostLinesLeaveTheBlockSideAlone : Prop :=
  ∀ s t : State, s.pending = none → step s = .next t → s.SameBlockSide t

/-- The holder changes only in a step that serves a PARSE of exactly 18 bytes (10_state.md section 3). -/
def Obligations.HolderChangesOnlyByParsing : Prop :=
  ∀ s t : State, step s = .next t → t.holder ≠ s.holder →
    ∃ p B, s.pending = some p ∧ decode p.request = .parse B ∧ B.length = 18 ∧
      ∃ r, t.response = some (.parsed r) ∧ t.holder = some r

/-- Every step keeps the machine's invariant: a well-formed layout, variables in their one form, responses of the widths
and forms the spec gives, a report on the ports that is the one in the holder, whole read results. -/
def Obligations.EveryStepKeepsTheInvariant : Prop :=
  ∀ s t : State, s.Inv → step s = .next t → t.Inv

/-- The invariant holds right after reset, under every well-formed layout. -/
def Obligations.InvariantHoldsAtReset : Prop :=
  State.reset.Inv ∧ ∀ c : Integration, c.layout.wf = true → (State.resetWith c).Inv

/-- Reset (70_reset_and_hazards.md section 1): LAYOUT and CMD_TABLE are what was declared, the holder is none, the line is
9600 8N1 without flow control, and the first request after a reset gets the response it gets anywhere. The configuration
of State.reset and MAX_RETRIES = 100 are the model's, log entry 2. That the state after a reset is the one with the
transport set up is the model's too, log entries 21 and 28: the spec gives the line's settings once the transport is set
up, and says nothing of a reset of the transport (N26). -/
def Obligations.ResetLeavesTheConfigurationAndEmptiesTheHolder : Prop :=
  (∀ s : State, s.afterReset.cfg = s.cfg ∧ s.afterReset.holder = none ∧
    s.afterReset.serial = some { baud := 9600, dataBits := 8, parity := false, stopBits := 1, flowControl := false }) ∧
  (∀ (s t : State) (i : Instr), exec i s = .next t →
    ∃ u, exec i s.afterReset = .next u ∧ u.response = t.response) ∧
  State.reset.cfg = { layout := ⟨4, 4, 8⟩, cmdTable := [], pollMs := 10, maxRetries := 100 } ∧
  State.reset.holder = none

/-- Once the transport exists no run ever faults, however long (70_reset_and_hazards.md section 1, step 2 of boot; the fault
is the model's, log entry 21). -/
def Obligations.NoFaultOnceTheTransportExists : Prop :=
  ∀ (k : Nat) (s : State), s.serial ≠ none → FaultFree k s

/-- Boot (70_reset_and_hazards.md section 1): an ill-formed layout is refused, and so is an ill-formed command table, for
one under L3310 a table without TEST = 0b101 (00_scope.md section 3, D6; log entry 9); a boot that goes through has the
declared configuration, the transport set up and an empty holder, and then serves every request; using the transport
before it is created faults (log entries 18 and 21). -/
def Obligations.BootDeclaresThenServes : Prop :=
  (∀ c ls, c.layout.wf = false → boot c ls = .refused .illFormedLayout) ∧
  (∀ c ls, c.layout.wf = true → CmdTable.wf c.layout c.cmdTable = false → boot c ls = .refused .illFormedCmdTable) ∧
  (∀ T, (0b101, CmdName.test) ∉ T → CmdTable.wf Layout.l3310 T = false) ∧
  (∀ c ls s, boot c ls = .next s →
    s.cfg = c ∧ c.wf = true ∧ s.script = ls ∧ s.pos = 0 ∧ s.serial = some SerialSettings.source ∧ s.holder = none ∧
    Script.wf c ls = true ∧ ∀ i, ∃ t, exec i s = .next t) ∧
  (∀ c s n k, declareIntegration c = .next s → hostLine (.read n k) s = .fault .transportNotSetUp)

/-! ### The host, the transport and the sequencer -/

/-- A request line puts the operation it stands for on the ports, and the block's step after it brings the response back
into its variable (30_encoding.md section 7, D13; the two steps are the model's, log entries 5 and 24). -/
def Obligations.RequestLineBringsItsResponse : Prop :=
  ∀ (s : State) (n : Nat) (q : ReqStmt) (i : Instr), s.cfg.layout.wf = true → s.pending = none →
    s.script[s.pos]? = some (.request n q) → formInstr s q = .ok (some i) →
    ∃ t u v r, step s = .next t ∧ t.pending = some { dst := some n, request := encode i } ∧ step t = .next u ∧
      exec i s = .next v ∧ v.response = some r ∧ u.response = some r ∧ Vars.get u.rvars n = some r ∧
      u.holder = v.holder ∧ u.pos = s.pos + 1 ∧ u.pending = none

/-- What literal request lines stand for (30_encoding.md section 7, D13): a literal that fits its port is the operand, and
one that does not fit, at any port of any request, is refused (log entry 18). -/
def Obligations.LiteralRequestLines : Prop :=
  ∀ (s : State) (a b c : Nat),
    (a < 2 ^ 16 → b < 2 ^ 16 → c < 2 ^ 16 → formInstr s (.enc (.lit a) (.lit b) (.lit c)) =
      .ok (some (.enc (BitVec.ofNat 16 a) (BitVec.ofNat 16 b) (BitVec.ofNat 16 c)))) ∧
    (a < 2 ^ 16 → formInstr s (.decw (.lit a)) = .ok (some (.decw (BitVec.ofNat 16 a)))) ∧
    (a < 2 ^ 8 → b < 2 ^ 8 → formInstr s (.decb (.lit a) (.lit b)) =
      .ok (some (.decb (BitVec.ofNat 8 a) (BitVec.ofNat 8 b)))) ∧
    (∀ bs : List Byte, formInstr s (.parse (bs.map fun x => .lit x.toNat)) = .ok (some (.parse bs))) ∧
    (2 ^ 16 ≤ a ∨ 2 ^ 16 ≤ b ∨ 2 ^ 16 ≤ c →
      formInstr s (.enc (.lit a) (.lit b) (.lit c)) = .error .literalTooWide) ∧
    (2 ^ 16 ≤ a → formInstr s (.decw (.lit a)) = .error .literalTooWide) ∧
    (2 ^ 8 ≤ a ∨ 2 ^ 8 ≤ b → formInstr s (.decb (.lit a) (.lit b)) = .error .literalTooWide) ∧
    (∀ ns : List Nat, (∃ n ∈ ns, 2 ^ 8 ≤ n) → formInstr s (.parse (ns.map .lit)) = .error .literalTooWide) ∧
    (∀ name code, commandCode s.cfg name = .ok code → 2 ^ 16 ≤ a ∨ 2 ^ 16 ≤ b →
      formInstr s (.encn name (.lit a) (.lit b)) = .error .literalTooWide)

/-- The pseudo-operations (30_encoding.md section 7, D13): `encn` is `enc` with the name's code where CMD_TABLE has exactly
one, and is refused where it has none; `decb rM.bytes_out` is `decb` of the two bytes. -/
def Obligations.PseudoOperationsExpand : Prop :=
  ∀ (s : State),
    (∀ (name : CmdName) (code a b : Nat), CmdTable.wf s.cfg.layout s.cfg.cmdTable = true →
      (code, name) ∈ s.cfg.cmdTable → (∀ e ∈ s.cfg.cmdTable, e.2 = name → e.1 = code) → a < 2 ^ 16 → b < 2 ^ 16 →
      formInstr s (.encn name (.lit a) (.lit b)) =
        .ok (some (.enc (BitVec.ofNat 16 a) (BitVec.ofNat 16 code) (BitVec.ofNat 16 b)))) ∧
    (∀ (name : CmdName) (a b : Operand), (∀ e ∈ s.cfg.cmdTable, e.2 ≠ name) →
      formInstr s (.encn name a b) = .error .unknownCommandName) ∧
    (∀ (m : Nat) (w : Word16) (b0 b1 : Byte), Vars.get s.rvars m = some (.encoded w b0 b1) →
      formInstr s (.decbBytesOut m) = .ok (some (.decb b0 b1)))

/-- A read returns exactly the bytes asked for or TimeoutError, and nothing in between, and leaves the holder alone
(45_transport_boundary.md section 1, D15). -/
def Obligations.ReadIsWholeOrTimesOut : Prop :=
  ∀ (s : State) (n k : Nat), s.pending = none → s.serial ≠ none → s.script[s.pos]? = some (.read n k) →
    ∃ t, step s = .next t ∧ t.pos = s.pos + 1 ∧ t.holder = s.holder ∧
      (Vars.get t.tvars n = some { asked := k, result := .timeoutError } ∨
        ∃ bs, bs.length = k ∧ Vars.get t.tvars n = some { asked := k, result := .bytes bs })

/-- Every outcome of a read is a possible draw: any `k` bytes, and TimeoutError (45_transport_boundary.md section 1, D15; the
list of draws is the model's, log entries 11 and 12). -/
def Obligations.EveryReadOutcomeIsPossible : Prop :=
  ∀ (s : State) (n k : Nat), s.pending = none → s.serial ≠ none → s.script[s.pos]? = some (.read n k) →
    (∀ bs : List Byte, bs.length = k →
      ∃ t, step { s with draws := [⟨0, bs⟩] } = .next t ∧
        Vars.get t.tvars n = some { asked := k, result := .bytes bs }) ∧
    (∃ t, step { s with draws := [⟨s.cfg.maxRetries + 1, []⟩] } = .next t ∧
      Vars.get t.tvars n = some { asked := k, result := .timeoutError })

/-- The retry loop is bounded (45_transport_boundary.md section 1, D18; the exact count is the model's, log entry 12): it
succeeds exactly when the bytes are there within MAX_RETRIES retries, and never sleeps longer than MAX_RETRIES polls. -/
def Obligations.RetryLoopIsBounded : Prop :=
  ∀ pollMs maxRetries needed : Nat,
    ((pollLoop pollMs maxRetries needed).1 = true ↔ needed ≤ maxRetries) ∧
    (pollLoop pollMs maxRetries needed).2 = min needed maxRetries * pollMs

/-- The report read (45_transport_boundary.md section 2, D16, log entry 26), for every draw of its read (R87): the host
sends 0x72 and reads 18 bytes; where the read returns them they are parsed and the holder is their report; on TimeoutError
PARSE is not called, and the holder and the variables rN are as they were. A listed draw of 18 bytes within MAX_RETRIES
retries is the first case and one beyond them the second (log entries 11 and 12); with none listed the draw is free. The
counts of 7 and 5 steps are the model's, log entry 5. -/
def Obligations.ReportReadParsesOrLeavesTheHolder : Prop :=
  ∀ (s : State) (n r got done : Nat), s.cfg.layout.wf = true → s.pending = none →
    s.serial ≠ none → got ≠ done → s.script = reportReadLines n r got done → s.pos = 0 →
    ∃ s₁, step s = .next s₁ ∧ s₁.sent = s.sent ++ [0x72#8] ∧ s₁.script[s₁.pos]? = some (.read n 18) ∧
      (∀ bs : List Byte, readOutcome 18 s₁ = .bytes bs → bs.length = 18 ∧
        ∃ u v rep, Sys2Proof.core.run 7 s = .next u ∧ exec (.parse bs) s = .next v ∧ v.response = some (.parsed rep) ∧
          u.holder = some rep ∧ Vars.get u.rvars r = some (.parsed rep) ∧ u.sent = s.sent ++ [0x72#8] ∧
          u.draws = s.draws.tail ∧ u.pos = 7) ∧
      (readOutcome 18 s₁ = .timeoutError →
        ∃ u, Sys2Proof.core.run 5 s = .next u ∧ u.holder = s.holder ∧ u.rvars = s.rvars ∧ u.response = s.response ∧
          u.sent = s.sent ++ [0x72#8] ∧ u.draws = s.draws.tail ∧ u.pos = 7) ∧
      (∀ k bs rest, s.draws = ⟨k, bs⟩ :: rest →
        (k ≤ s.cfg.maxRetries → bs.length = 18 → readOutcome 18 s₁ = .bytes bs) ∧
        (s.cfg.maxRetries < k → readOutcome 18 s₁ = .timeoutError))

/-- What `send` puts on the line (20_memory.md section 1; that a number of one byte is one byte is the model's, log entry
15): a wire word goes high byte first, `bytes_out` in its order, a read's bytes in theirs, a one-byte literal, a byte of
`bytes_out` and a one-byte report field as they are. -/
def Obligations.SendPutsBytesOnTheLine : Prop :=
  ∀ (s : State) (a : Operand) (bs : List Byte), s.pending = none → s.serial ≠ none →
    s.script[s.pos]? = some (.send a) →
    ((∃ r w b0 b1, a = .result r .wordOut ∧ Vars.get s.rvars r = some (.encoded w b0 b1) ∧
        bs = [w.extractLsb 15 8, w.extractLsb 7 0]) ∨
      (∃ r w b0 b1, a = .result r .bytesOut ∧ Vars.get s.rvars r = some (.encoded w b0 b1) ∧ bs = [b0, b1]) ∨
      (∃ t k, a = .read t ∧ Vars.get s.tvars t = some { asked := k, result := .bytes bs }) ∨
      (∃ b : Byte, a = .lit b.toNat ∧ bs = [b]) ∨
      (∃ r w b0 b1 b, Vars.get s.rvars r = some (.encoded w b0 b1) ∧
        (a = .result r (.bytesOutAt 0) ∧ b = b0 ∨ a = .result r (.bytesOutAt 1) ∧ b = b1) ∧ bs = [b]) ∨
      (∃ r rep f b, a = .result r (.reportField f) ∧ Vars.get s.rvars r = some (.parsed rep) ∧
        (f, b) ∈ [(ReportField.startOfFrame, rep.startOfFrame), (.bitErrorRate, rep.bitErrorRate),
          (.signalPower, rep.signalPower), (.noisePower, rep.noisePower), (.packetInvalid, rep.packetInvalid),
          (.firmwareVersion, rep.firmwareVersion), (.endOfFrame, rep.endOfFrame)] ∧ bs = [b])) →
    ∃ t, step s = .next t ∧ t.sent = s.sent ++ bs ∧ t.pos = s.pos + 1 ∧ t.holder = s.holder ∧ t.tvars = s.tvars

/-- The host's branches (30_encoding.md section 7, D13): `jmp` always, `bok rN` on status OK, `bok tN` on a read that
returned its bytes, `beq` on equal numbers, byte sequences, command classes and reports, and on two reads that timed out;
else the next line, as for a read that timed out beside a byte sequence (R87). `halt` stays, whatever the script's labels
(log entry 17). That command classes and reports are compared by their contents is the model's, log entry 14. -/
def Obligations.BranchesFollowTheScript : Prop :=
  ∀ s : State, s.pending = none →
    (s.script[s.pos]? = some .halt → ∀ k, Sys2Proof.core.run k s = .next s) ∧
    ∀ l p : Nat, findLabel s l = some p →
      (s.script[s.pos]? = some (.jmp l) → step s = .next (s.goto p)) ∧
      (∀ n r, s.script[s.pos]? = some (.bokResponse n l) → Vars.get s.rvars n = some r →
        step s = .next (s.goto (if r.status = .ok then p else s.pos + 1))) ∧
      (∀ n k bs, s.script[s.pos]? = some (.bokRead n l) →
        Vars.get s.tvars n = some { asked := k, result := .bytes bs } → step s = .next (s.goto p)) ∧
      (∀ n k, s.script[s.pos]? = some (.bokRead n l) →
        Vars.get s.tvars n = some { asked := k, result := .timeoutError } → step s = .next (s.goto (s.pos + 1))) ∧
      (∀ a b, s.script[s.pos]? = some (.beq (.lit a) (.lit b) l) →
        step s = .next (s.goto (if a = b then p else s.pos + 1))) ∧
      (∀ a b x y, s.script[s.pos]? = some (.beq a b l) → evalOperand s a = .ok x → evalOperand s b = .ok y →
        (∀ m n, x.number = some m → y.number = some n →
          step s = .next (s.goto (if m = n then p else s.pos + 1))) ∧
        (∀ m n, x = .bytes m → y = .bytes n → step s = .next (s.goto (if m = n then p else s.pos + 1))) ∧
        (x = .timeoutError → y = .timeoutError → step s = .next (s.goto p)) ∧
        (∀ m, (x = .timeoutError ∧ y = .bytes m) ∨ (x = .bytes m ∧ y = .timeoutError) →
          step s = .next (s.goto (s.pos + 1))) ∧
        (∀ m n, x = .cls m → y = .cls n → step s = .next (s.goto (if m = n then p else s.pos + 1))) ∧
        (∀ m n, x = .report m → y = .report n → step s = .next (s.goto (if m = n then p else s.pos + 1))))

/-- R90: the sequencer's command bytes. -/
def Obligations.SequencerCommandBytes : Prop :=
  commandByte .modeSwitch = 0x6D#8 ∧ commandByte .channelSelect = 0x63#8 ∧ commandByte .powerLevel = 0x6C#8 ∧
    commandByte .reportRequest = 0x72#8

/-- The argument bytes (45_transport_boundary.md section 2; the ASCII values are general knowledge, G2, G3, log entry 20):
channels 1 to 9 and 10 to 12, power levels 1 to 4, and none outside. -/
def Obligations.SequencerArgumentBytes : Prop :=
  ∀ k : Nat,
    (1 ≤ k → k ≤ 9 → ∃ b, channelByte k = some b ∧ b.toNat = 0x30 + k) ∧
    (10 ≤ k → k ≤ 12 → ∃ b, channelByte k = some b ∧ b.toNat = 0x61 + (k - 10)) ∧
    (k = 0 ∨ 12 < k → channelByte k = none) ∧
    (1 ≤ k → k ≤ 4 → ∃ b, powerByte k = some b ∧ b.toNat = 0x30 + k) ∧
    (k = 0 ∨ 4 < k → powerByte k = none)

/-- Out-of-range sequencer arguments are silently ignored (45_transport_boundary.md section 2): nothing is sent, nothing is
reported, the host goes on. The line that asks for the operation is the model's, log entry 19. -/
def Obligations.OutOfRangeSequencerArgumentsDoNothing : Prop :=
  ∀ (s : State) (k : Nat), s.pending = none →
    (k = 0 ∨ 12 < k → s.script[s.pos]? = some (.sequencer .channelSelect k) → step s = .next s.advance) ∧
    (k = 0 ∨ 4 < k → s.script[s.pos]? = some (.sequencer .powerLevel k) → step s = .next s.advance)

/-- An accepted sequencer operation runs its SEQ_SCRIPT (45_transport_boundary.md section 2, D19), whatever that is: its
sends go out in order and its waits move the clock; the block's side is untouched. The line that asks for the operation is
the model's, log entry 19, and so is the clock that the waits move, log entry 13. -/
def Obligations.AcceptedSequencerOperationsRunTheirScript : Prop :=
  ∀ (s : State) (op : SeqOp) (arg : Nat), s.pending = none → s.serial ≠ none →
    s.script[s.pos]? = some (.sequencer op arg) →
    (op = .channelSelect → 1 ≤ arg ∧ arg ≤ 12) → (op = .powerLevel → 1 ≤ arg ∧ arg ≤ 4) →
    ∃ t, step s = .next t ∧ t.pos = s.pos + 1 ∧
      t.sent = s.sent ++ (Config.seqScript op arg).filterMap
        (fun a => match a with | .send b => some b | .wait _ => none) ∧
      t.clockMs = s.clockMs + ((Config.seqScript op arg).map
        (fun a => match a with | .send _ => 0 | .wait ms => ms)).sum ∧
      s.SameBlockSide t ∧ t.tvars = s.tvars ∧ t.draws = s.draws

/-- Host lines that have no meaning are refused by name (log entry 18): a result field the response has not
(10_state.md section 2), wherever a line reads it; an operand of a port that is no number; a name with no code in CMD_TABLE;
and a branch that is taken to a label the script has not. Which fields a response has is said as well. -/
def Obligations.HostLinesWithNoMeaningAreRefused : Prop :=
  ∀ s : State, s.pending = none →
    (∀ n f resp, Vars.get s.rvars n = some resp → resultField resp f = none →
      (s.script[s.pos]? = some (.send (.result n f)) → step s = .refused (.noSuchResult n)) ∧
      (∀ b l, s.script[s.pos]? = some (.beq (.result n f) b l) → step s = .refused (.noSuchResult n)) ∧
      (∀ a v l, s.script[s.pos]? = some (.beq a (.result n f) l) → evalOperand s a = .ok v →
        step s = .refused (.noSuchResult n)) ∧
      (∀ m q, s.script[s.pos]? = some (.request m q) → ReadsAtPort s (.result n f) q →
        step s = .refused (.noSuchResult n))) ∧
    (∀ m q x, s.script[s.pos]? = some (.request m q) → ReadsAtPort s x q →
      ((∃ t, x = .read t) ∨ (∃ r f bs, x = .result r f ∧ evalOperand s x = .ok (.bytes bs)) ∨
        (∃ r f c, x = .result r f ∧ evalOperand s x = .ok (.cls c)) ∨
        (∃ r f rep, x = .result r f ∧ evalOperand s x = .ok (.report rep))) →
      step s = .refused .wrongKind) ∧
    (∀ m name a b, s.script[s.pos]? = some (.request m (.encn name a b)) → (∀ e ∈ s.cfg.cmdTable, e.2 ≠ name) →
      step s = .refused .unknownCommandName) ∧
    (∀ l, findLabel s l = none →
      (s.script[s.pos]? = some (.jmp l) → step s = .refused (.undefinedLabel l)) ∧
      (∀ n r, s.script[s.pos]? = some (.bokResponse n l) → Vars.get s.rvars n = some r → r.status = .ok →
        step s = .refused (.undefinedLabel l)) ∧
      (∀ n k bs, s.script[s.pos]? = some (.bokRead n l) →
        Vars.get s.tvars n = some { asked := k, result := .bytes bs } → step s = .refused (.undefinedLabel l)) ∧
      (∀ a b x y, s.script[s.pos]? = some (.beq a b l) → evalOperand s a = .ok x → evalOperand s b = .ok y →
        x.equal y = some true → step s = .refused (.undefinedLabel l))) ∧
    (∀ f w b0 b1, resultField (.encoded w b0 b1) f = none ↔
      f ∉ [.status, .wordOut, .bytesOut, .bytesOutAt 0, .bytesOutAt 1]) ∧
    (∀ f d, resultField (.decoded d) f = none ↔ f ∉ [.status, .idOut, .commandOut, .payloadOut, .commandClass]) ∧
    (∀ f rep, resultField (.parsed rep) f = none ↔ f ∉ [.status, .report] ∧ ∀ g, f ≠ .reportField g) ∧
    (∀ f n, resultField (.lengthError n) f = none ↔ f ∉ [.status, .lenSeen])

/-- `rN := parse tN` follows the outcome of its read (45_transport_boundary.md section 2, R94, D16): the bytes a read returned go
onto the ports of PARSE; on TimeoutError PARSE is not called, and the script goes on with the holder, the response and the
variables as they were. That it goes on there with the next line is the model's, log entry 27. -/
def Obligations.ParseOfAReadFollowsItsOutcome : Prop :=
  ∀ (s : State) (n t k : Nat), s.pending = none → s.script[s.pos]? = some (.request n (.parseRead t)) →
    (∀ bs, Vars.get s.tvars t = some { asked := k, result := .bytes bs } →
      step s = .next (s.issue (some n) (encode (.parse bs))).advance) ∧
    (Vars.get s.tvars t = some { asked := k, result := .timeoutError } →
      ∃ u, step s = .next u ∧ s.SameBlockSide u ∧ u.pending = none ∧ u.tvars = s.tvars ∧ u.pos = s.pos + 1 ∧
        u.sent = s.sent ∧ u.draws = s.draws) ∧
    (Vars.get s.tvars t = none →
      (∃ bs, step s = .next (s.issue (some n) (encode (.parse bs))).advance) ∨ step s = .next s.advance)

/-- `send`, `beq` and `bok` run on every operand (30_encoding.md section 7, D13), a read that timed out, a number of any width
and a variable not written among them; only a field that its response has not stops them. What is sent, and which way a
branch goes, where the spec does not state it, is a free value (log entry 27). -/
def Obligations.SendAndBranchesRunOnEveryOperand : Prop :=
  ∀ (s : State) (a b : Operand) (l p n : Nat), s.pending = none →
    (s.serial ≠ none → HasItsField s a → s.script[s.pos]? = some (.send a) →
      ∃ bs t, step s = .next t ∧ t.sent = s.sent ++ bs ∧ t.pos = s.pos + 1 ∧ s.SameBlockSide t ∧ t.tvars = s.tvars ∧
        t.draws = s.draws ∧ t.clockMs = s.clockMs) ∧
    (HasItsField s a → HasItsField s b → findLabel s l = some p → s.script[s.pos]? = some (.beq a b l) →
      step s = .next (s.goto p) ∨ step s = .next s.advance) ∧
    (findLabel s l = some p → s.script[s.pos]? = some (.bokResponse n l) →
      step s = .next (s.goto p) ∨ step s = .next s.advance) ∧
    (findLabel s l = some p → s.script[s.pos]? = some (.bokRead n l) →
      step s = .next (s.goto p) ∨ step s = .next s.advance)

/-- Every request line whose operands its ports take stands for its operation (30_encoding.md section 7, 10_state.md section 2),
whatever the numbers in the responses are: a number that fits is on its port as it is, and what stands there for one that
is too wide, or for a variable not written, is a free value (log entry 27). -/
def Obligations.NumbersOfResultsGoOntoThePorts : Prop :=
  ∀ (s : State) (a b c : Operand),
    (PortOperand s 16 a → PortOperand s 16 b → PortOperand s 16 c →
      ∃ i k p, formInstr s (.enc a b c) = .ok (some (.enc i k p)) ∧ OnPort s a i ∧ OnPort s b k ∧ OnPort s c p) ∧
    (PortOperand s 16 a → ∃ w, formInstr s (.decw a) = .ok (some (.decw w)) ∧ OnPort s a w) ∧
    (PortOperand s 8 a → PortOperand s 8 b →
      ∃ b0 b1, formInstr s (.decb a b) = .ok (some (.decb b0 b1)) ∧ OnPort s a b0 ∧ OnPort s b b1) ∧
    (∀ as : List Operand, (∀ x ∈ as, PortOperand s 8 x) →
      ∃ bs, formInstr s (.parse as) = .ok (some (.parse bs)) ∧ bs.length = as.length ∧
        ∀ (j : Nat) (x : Operand) (y : Byte), as[j]? = some x → bs[j]? = some y → OnPort s x y) ∧
    (∀ name code, commandCode s.cfg name = .ok code → PortOperand s 16 a → PortOperand s 16 b →
      ∃ i p, formInstr s (.encn name a b) = .ok (some (.enc i (BitVec.ofNat 16 code) p)) ∧ OnPort s a i ∧ OnPort s b p)

/-- What an operand names (30_encoding.md section 7; 10_state.md section 2; the status codes are D9): a literal its number, rN.<field> that
result of the response, tN the bytes its read returned, or TimeoutError. -/
def Obligations.OperandsNameTheirValues : Prop :=
  ∀ (s : State) (v : Nat),
    (∀ n, evalOperand s (.lit n) = .ok (.num n)) ∧
    (∀ w b0 b1, Vars.get s.rvars v = some (.encoded w b0 b1) →
      evalOperand s (.result v .status) = .ok (.num 0) ∧ evalOperand s (.result v .wordOut) = .ok (.word w) ∧
      evalOperand s (.result v .bytesOut) = .ok (.bytes [b0, b1]) ∧
      evalOperand s (.result v (.bytesOutAt 0)) = .ok (.num b0.toNat) ∧
      evalOperand s (.result v (.bytesOutAt 1)) = .ok (.num b1.toNat)) ∧
    (∀ d, Vars.get s.rvars v = some (.decoded d) →
      evalOperand s (.result v .status) = .ok (.num 0) ∧
      evalOperand s (.result v .idOut) = .ok (.num d.idOut.toNat) ∧
      evalOperand s (.result v .commandOut) = .ok (.num d.commandOut.toNat) ∧
      evalOperand s (.result v .payloadOut) = .ok (.num d.payloadOut.toNat) ∧
      evalOperand s (.result v .commandClass) = .ok (.cls d.commandClass)) ∧
    (∀ n, Vars.get s.rvars v = some (.lengthError n) →
      evalOperand s (.result v .status) = .ok (.num 1) ∧ evalOperand s (.result v .lenSeen) = .ok (.num n)) ∧
    (∀ r, Vars.get s.rvars v = some (.parsed r) →
      evalOperand s (.result v .status) = .ok (.num 0) ∧ evalOperand s (.result v .report) = .ok (.report r) ∧
      ∀ f n, (f, n) ∈ [(ReportField.startOfFrame, r.startOfFrame.toNat), (.transportBlock, r.transportBlock.toNat),
          (.bitErrorRate, r.bitErrorRate.toNat), (.signalPower, r.signalPower.toNat),
          (.noisePower, r.noisePower.toNat), (.packetValid, r.packetValid.toNat),
          (.packetInvalid, r.packetInvalid.toNat), (.firmwareVersion, r.firmwareVersion.toNat),
          (.timeSinceBoot, r.timeSinceBoot.toNat), (.chipId, r.chipId.toNat), (.hwRev, r.hwRev.toNat),
          (.channel, r.channel.toNat), (.tbValid, r.tbValid.toNat), (.txComplete, r.txComplete.toNat),
          (.diagnostic, r.diagnostic.toNat), (.powerLevel, r.powerLevel.toNat), (.endOfFrame, r.endOfFrame.toNat)] →
        evalOperand s (.result v (.reportField f)) = .ok (.num n)) ∧
    (∀ k bs, Vars.get s.tvars v = some { asked := k, result := .bytes bs } →
      evalOperand s (.read v) = .ok (.bytes bs)) ∧
    (∀ k, Vars.get s.tvars v = some { asked := k, result := .timeoutError } →
      evalOperand s (.read v) = .ok .timeoutError)
end

