-- ==== Sys2Proof/Laws/State.lean ====
section
/-! SUPPORT. One lemma per field per update of State, true by rfl, so that no proof unfolds a record update. -/

namespace Sys2Proof.Machine.State

@[simp] theorem deliver_cfg (r : Response) (s : State) : (s.deliver r).cfg = s.cfg := rfl
@[simp] theorem deliver_pending (r : Response) (s : State) : (s.deliver r).pending = none := rfl
@[simp] theorem deliver_response (r : Response) (s : State) : (s.deliver r).response = some r := rfl
@[simp] theorem deliver_holder (r : Response) (s : State) : (s.deliver r).holder = holderAfter r s.holder := rfl
@[simp] theorem deliver_script (r : Response) (s : State) : (s.deliver r).script = s.script := rfl
@[simp] theorem deliver_pos (r : Response) (s : State) : (s.deliver r).pos = s.pos := rfl
@[simp] theorem deliver_rvars (r : Response) (s : State) : (s.deliver r).rvars = bindResponse s.pending r s.rvars := rfl
@[simp] theorem deliver_tvars (r : Response) (s : State) : (s.deliver r).tvars = s.tvars := rfl
@[simp] theorem deliver_serial (r : Response) (s : State) : (s.deliver r).serial = s.serial := rfl
@[simp] theorem deliver_sent (r : Response) (s : State) : (s.deliver r).sent = s.sent := rfl
@[simp] theorem deliver_draws (r : Response) (s : State) : (s.deliver r).draws = s.draws := rfl
@[simp] theorem deliver_drawCount (r : Response) (s : State) : (s.deliver r).drawCount = s.drawCount := rfl
@[simp] theorem deliver_clockMs (r : Response) (s : State) : (s.deliver r).clockMs = s.clockMs := rfl
@[simp] theorem deliver_lineCount (r : Response) (s : State) : (s.deliver r).lineCount = s.lineCount := rfl

@[simp] theorem goto_cfg (p : Nat) (s : State) : (s.goto p).cfg = s.cfg := rfl
@[simp] theorem goto_pending (p : Nat) (s : State) : (s.goto p).pending = s.pending := rfl
@[simp] theorem goto_response (p : Nat) (s : State) : (s.goto p).response = s.response := rfl
@[simp] theorem goto_holder (p : Nat) (s : State) : (s.goto p).holder = s.holder := rfl
@[simp] theorem goto_script (p : Nat) (s : State) : (s.goto p).script = s.script := rfl
@[simp] theorem goto_pos (p : Nat) (s : State) : (s.goto p).pos = p := rfl
@[simp] theorem goto_rvars (p : Nat) (s : State) : (s.goto p).rvars = s.rvars := rfl
@[simp] theorem goto_tvars (p : Nat) (s : State) : (s.goto p).tvars = s.tvars := rfl
@[simp] theorem goto_serial (p : Nat) (s : State) : (s.goto p).serial = s.serial := rfl
@[simp] theorem goto_sent (p : Nat) (s : State) : (s.goto p).sent = s.sent := rfl
@[simp] theorem goto_draws (p : Nat) (s : State) : (s.goto p).draws = s.draws := rfl
@[simp] theorem goto_drawCount (p : Nat) (s : State) : (s.goto p).drawCount = s.drawCount := rfl
@[simp] theorem goto_clockMs (p : Nat) (s : State) : (s.goto p).clockMs = s.clockMs := rfl
@[simp] theorem goto_lineCount (p : Nat) (s : State) : (s.goto p).lineCount = s.lineCount + 1 := rfl

@[simp] theorem advance_cfg (s : State) : s.advance.cfg = s.cfg := rfl
@[simp] theorem advance_pending (s : State) : s.advance.pending = s.pending := rfl
@[simp] theorem advance_response (s : State) : s.advance.response = s.response := rfl
@[simp] theorem advance_holder (s : State) : s.advance.holder = s.holder := rfl
@[simp] theorem advance_script (s : State) : s.advance.script = s.script := rfl
@[simp] theorem advance_pos (s : State) : s.advance.pos = s.pos + 1 := rfl
@[simp] theorem advance_rvars (s : State) : s.advance.rvars = s.rvars := rfl
@[simp] theorem advance_tvars (s : State) : s.advance.tvars = s.tvars := rfl
@[simp] theorem advance_serial (s : State) : s.advance.serial = s.serial := rfl
@[simp] theorem advance_sent (s : State) : s.advance.sent = s.sent := rfl
@[simp] theorem advance_draws (s : State) : s.advance.draws = s.draws := rfl
@[simp] theorem advance_drawCount (s : State) : s.advance.drawCount = s.drawCount := rfl
@[simp] theorem advance_clockMs (s : State) : s.advance.clockMs = s.clockMs := rfl
@[simp] theorem advance_lineCount (s : State) : s.advance.lineCount = s.lineCount + 1 := rfl

@[simp] theorem issue_cfg (dst : Option Nat) (r : Request) (s : State) : (s.issue dst r).cfg = s.cfg := rfl
@[simp] theorem issue_pending (dst : Option Nat) (r : Request) (s : State) : (s.issue dst r).pending = some { dst := dst, request := r } := rfl
@[simp] theorem issue_response (dst : Option Nat) (r : Request) (s : State) : (s.issue dst r).response = s.response := rfl
@[simp] theorem issue_holder (dst : Option Nat) (r : Request) (s : State) : (s.issue dst r).holder = s.holder := rfl
@[simp] theorem issue_script (dst : Option Nat) (r : Request) (s : State) : (s.issue dst r).script = s.script := rfl
@[simp] theorem issue_pos (dst : Option Nat) (r : Request) (s : State) : (s.issue dst r).pos = s.pos := rfl
@[simp] theorem issue_rvars (dst : Option Nat) (r : Request) (s : State) : (s.issue dst r).rvars = s.rvars := rfl
@[simp] theorem issue_tvars (dst : Option Nat) (r : Request) (s : State) : (s.issue dst r).tvars = s.tvars := rfl
@[simp] theorem issue_serial (dst : Option Nat) (r : Request) (s : State) : (s.issue dst r).serial = s.serial := rfl
@[simp] theorem issue_sent (dst : Option Nat) (r : Request) (s : State) : (s.issue dst r).sent = s.sent := rfl
@[simp] theorem issue_draws (dst : Option Nat) (r : Request) (s : State) : (s.issue dst r).draws = s.draws := rfl
@[simp] theorem issue_drawCount (dst : Option Nat) (r : Request) (s : State) : (s.issue dst r).drawCount = s.drawCount := rfl
@[simp] theorem issue_clockMs (dst : Option Nat) (r : Request) (s : State) : (s.issue dst r).clockMs = s.clockMs := rfl
@[simp] theorem issue_lineCount (dst : Option Nat) (r : Request) (s : State) : (s.issue dst r).lineCount = s.lineCount := rfl

@[simp] theorem bindRead_cfg (n : Nat) (r : ReadRecord) (s : State) : (s.bindRead n r).cfg = s.cfg := rfl
@[simp] theorem bindRead_pending (n : Nat) (r : ReadRecord) (s : State) : (s.bindRead n r).pending = s.pending := rfl
@[simp] theorem bindRead_response (n : Nat) (r : ReadRecord) (s : State) : (s.bindRead n r).response = s.response := rfl
@[simp] theorem bindRead_holder (n : Nat) (r : ReadRecord) (s : State) : (s.bindRead n r).holder = s.holder := rfl
@[simp] theorem bindRead_script (n : Nat) (r : ReadRecord) (s : State) : (s.bindRead n r).script = s.script := rfl
@[simp] theorem bindRead_pos (n : Nat) (r : ReadRecord) (s : State) : (s.bindRead n r).pos = s.pos := rfl
@[simp] theorem bindRead_rvars (n : Nat) (r : ReadRecord) (s : State) : (s.bindRead n r).rvars = s.rvars := rfl
@[simp] theorem bindRead_tvars (n : Nat) (r : ReadRecord) (s : State) : (s.bindRead n r).tvars = Vars.set s.tvars n r := rfl
@[simp] theorem bindRead_serial (n : Nat) (r : ReadRecord) (s : State) : (s.bindRead n r).serial = s.serial := rfl
@[simp] theorem bindRead_sent (n : Nat) (r : ReadRecord) (s : State) : (s.bindRead n r).sent = s.sent := rfl
@[simp] theorem bindRead_draws (n : Nat) (r : ReadRecord) (s : State) : (s.bindRead n r).draws = s.draws := rfl
@[simp] theorem bindRead_drawCount (n : Nat) (r : ReadRecord) (s : State) : (s.bindRead n r).drawCount = s.drawCount := rfl
@[simp] theorem bindRead_clockMs (n : Nat) (r : ReadRecord) (s : State) : (s.bindRead n r).clockMs = s.clockMs := rfl
@[simp] theorem bindRead_lineCount (n : Nat) (r : ReadRecord) (s : State) : (s.bindRead n r).lineCount = s.lineCount := rfl

@[simp] theorem putOnLine_cfg (bs : List Byte) (s : State) : (s.putOnLine bs).cfg = s.cfg := rfl
@[simp] theorem putOnLine_pending (bs : List Byte) (s : State) : (s.putOnLine bs).pending = s.pending := rfl
@[simp] theorem putOnLine_response (bs : List Byte) (s : State) : (s.putOnLine bs).response = s.response := rfl
@[simp] theorem putOnLine_holder (bs : List Byte) (s : State) : (s.putOnLine bs).holder = s.holder := rfl
@[simp] theorem putOnLine_script (bs : List Byte) (s : State) : (s.putOnLine bs).script = s.script := rfl
@[simp] theorem putOnLine_pos (bs : List Byte) (s : State) : (s.putOnLine bs).pos = s.pos := rfl
@[simp] theorem putOnLine_rvars (bs : List Byte) (s : State) : (s.putOnLine bs).rvars = s.rvars := rfl
@[simp] theorem putOnLine_tvars (bs : List Byte) (s : State) : (s.putOnLine bs).tvars = s.tvars := rfl
@[simp] theorem putOnLine_serial (bs : List Byte) (s : State) : (s.putOnLine bs).serial = s.serial := rfl
@[simp] theorem putOnLine_sent (bs : List Byte) (s : State) : (s.putOnLine bs).sent = s.sent ++ bs := rfl
@[simp] theorem putOnLine_draws (bs : List Byte) (s : State) : (s.putOnLine bs).draws = s.draws := rfl
@[simp] theorem putOnLine_drawCount (bs : List Byte) (s : State) : (s.putOnLine bs).drawCount = s.drawCount := rfl
@[simp] theorem putOnLine_clockMs (bs : List Byte) (s : State) : (s.putOnLine bs).clockMs = s.clockMs := rfl
@[simp] theorem putOnLine_lineCount (bs : List Byte) (s : State) : (s.putOnLine bs).lineCount = s.lineCount := rfl

@[simp] theorem sleep_cfg (ms : Nat) (s : State) : (s.sleep ms).cfg = s.cfg := rfl
@[simp] theorem sleep_pending (ms : Nat) (s : State) : (s.sleep ms).pending = s.pending := rfl
@[simp] theorem sleep_response (ms : Nat) (s : State) : (s.sleep ms).response = s.response := rfl
@[simp] theorem sleep_holder (ms : Nat) (s : State) : (s.sleep ms).holder = s.holder := rfl
@[simp] theorem sleep_script (ms : Nat) (s : State) : (s.sleep ms).script = s.script := rfl
@[simp] theorem sleep_pos (ms : Nat) (s : State) : (s.sleep ms).pos = s.pos := rfl
@[simp] theorem sleep_rvars (ms : Nat) (s : State) : (s.sleep ms).rvars = s.rvars := rfl
@[simp] theorem sleep_tvars (ms : Nat) (s : State) : (s.sleep ms).tvars = s.tvars := rfl
@[simp] theorem sleep_serial (ms : Nat) (s : State) : (s.sleep ms).serial = s.serial := rfl
@[simp] theorem sleep_sent (ms : Nat) (s : State) : (s.sleep ms).sent = s.sent := rfl
@[simp] theorem sleep_draws (ms : Nat) (s : State) : (s.sleep ms).draws = s.draws := rfl
@[simp] theorem sleep_drawCount (ms : Nat) (s : State) : (s.sleep ms).drawCount = s.drawCount := rfl
@[simp] theorem sleep_clockMs (ms : Nat) (s : State) : (s.sleep ms).clockMs = s.clockMs + ms := rfl
@[simp] theorem sleep_lineCount (ms : Nat) (s : State) : (s.sleep ms).lineCount = s.lineCount := rfl

@[simp] theorem useDraw_cfg (s : State) : s.useDraw.cfg = s.cfg := rfl
@[simp] theorem useDraw_pending (s : State) : s.useDraw.pending = s.pending := rfl
@[simp] theorem useDraw_response (s : State) : s.useDraw.response = s.response := rfl
@[simp] theorem useDraw_holder (s : State) : s.useDraw.holder = s.holder := rfl
@[simp] theorem useDraw_script (s : State) : s.useDraw.script = s.script := rfl
@[simp] theorem useDraw_pos (s : State) : s.useDraw.pos = s.pos := rfl
@[simp] theorem useDraw_rvars (s : State) : s.useDraw.rvars = s.rvars := rfl
@[simp] theorem useDraw_tvars (s : State) : s.useDraw.tvars = s.tvars := rfl
@[simp] theorem useDraw_serial (s : State) : s.useDraw.serial = s.serial := rfl
@[simp] theorem useDraw_sent (s : State) : s.useDraw.sent = s.sent := rfl
@[simp] theorem useDraw_draws (s : State) : s.useDraw.draws = s.draws.tail := rfl
@[simp] theorem useDraw_drawCount (s : State) : s.useDraw.drawCount = s.drawCount + 1 := rfl
@[simp] theorem useDraw_clockMs (s : State) : s.useDraw.clockMs = s.clockMs := rfl
@[simp] theorem useDraw_lineCount (s : State) : s.useDraw.lineCount = s.lineCount := rfl

end Sys2Proof.Machine.State
end

