-- ==== Sys2Proof/Laws/Vars.lean ====
section
/-! SUPPORT. The laws of numbered variables: read after write, and that a write keeps the one form. -/

namespace Sys2Proof.Machine

variable {α : Type}

@[simp] theorem Vars.get_set_same (m : List (Nat × α)) (k : Nat) (v : α) : Vars.get (Vars.set m k v) k = some v := by
  induction m with
  | nil => simp [Vars.set, Vars.get]
  | cons e rest ih =>
    obtain ⟨j, w⟩ := e
    simp only [Vars.set]
    split_ifs with h1 h2
    · simp [Vars.get]
    · simp [Vars.get]
    · simp [Vars.get, Ne.symm h2, ih]

theorem Vars.get_set_other (m : List (Nat × α)) {k n : Nat} (v : α) (h : k ≠ n) :
    Vars.get (Vars.set m k v) n = Vars.get m n := by
  induction m with
  | nil => simp [Vars.set, Vars.get, h]
  | cons e rest ih =>
    obtain ⟨j, w⟩ := e
    simp only [Vars.set]
    split_ifs with h1 h2
    · simp [Vars.get, h]
    · subst h2; simp [Vars.get, h]
    · simp [Vars.get, ih]

theorem Vars.mem_set {m : List (Nat × α)} {k : Nat} {v : α} {e : Nat × α} (h : e ∈ Vars.set m k v) :
    e = (k, v) ∨ e ∈ m := by
  induction m with
  | nil => simpa [Vars.set] using h
  | cons f rest ih =>
    obtain ⟨j, w⟩ := f
    simp only [Vars.set] at h
    split_ifs at h with h1 h2
    · simpa using h
    · rcases List.mem_cons.1 h with h | h <;> simp [h]
    · rcases List.mem_cons.1 h with h | h
      · simp [h]
      · rcases ih h with h | h <;> simp [h]

theorem Vars.set_canonical {m : List (Nat × α)} (k : Nat) (v : α) (hm : Vars.Canonical m) :
    Vars.Canonical (Vars.set m k v) := by
  induction m with
  | nil => simp [Vars.set]
  | cons e rest ih =>
    obtain ⟨j, w⟩ := e
    obtain ⟨hj, hrest⟩ := List.pairwise_cons.1 hm
    simp only [Vars.set]
    split_ifs with h1 h2
    · refine List.pairwise_cons.2 ⟨fun b hb => ?_, hm⟩
      rcases List.mem_cons.1 hb with rfl | hb
      · exact h1
      · exact lt_trans h1 (hj b hb)
    · subst h2
      exact List.pairwise_cons.2 ⟨hj, hrest⟩
    · refine List.pairwise_cons.2 ⟨fun b hb => ?_, ih hrest⟩
      rcases Vars.mem_set hb with rfl | hb
      · simp only; omega
      · exact hj b hb

end Sys2Proof.Machine
end

