-- ==== Sys2Proof/Laws/Ops.lean ====
section
/-! SUPPORT. What the shared operations over State can do, said once. -/

namespace Sys2Proof.Machine

@[simp] theorem serve_of_wf {s : State} (r : Response) (h : s.cfg.layout.wf = true) : s.serve r = .next (s.deliver r) := by
  simp [State.serve, h]

@[simp] theorem serve_of_not_wf {s : State} (r : Response) (h : s.cfg.layout.wf = false) :
    s.serve r = .refused .illFormedLayout := by
  simp [State.serve, h]

theorem serve_eq_next {s t : State} {r : Response} (h : s.serve r = .next t) :
    s.cfg.layout.wf = true ∧ t = s.deliver r := by
  unfold State.serve at h
  split at h
  · exact ⟨‹_›, by cases h; rfl⟩
  · cases h

theorem serve_ne_fault (s : State) (r : Response) (f : Fault) : s.serve r ≠ .fault f := by
  unfold State.serve
  split <;> simp

theorem holderAfter_of_not_parsed {r : Response} (h : Option Report) (hr : ∀ rep, r ≠ .parsed rep) :
    holderAfter r h = h := by
  cases r with
  | parsed rep => exact absurd rfl (hr rep)
  | encoded => rfl
  | decoded => rfl
  | lengthError => rfl

theorem bindResponse_get_other (p : Option Pending) (r : Response) (vars : List (Nat × Response)) {n : Nat}
    (h : p.bind Pending.dst ≠ some n) : Vars.get (bindResponse p r vars) n = Vars.get vars n := by
  unfold bindResponse
  split
  · rename_i m hm
    exact Vars.get_set_other _ _ fun hmn => h (by rw [hm, hmn])
  · rfl

theorem bindResponse_get_same {p : Option Pending} (r : Response) (vars : List (Nat × Response)) {n : Nat}
    (h : p.bind Pending.dst = some n) : Vars.get (bindResponse p r vars) n = some r := by
  simp [bindResponse, h]

theorem bindResponse_canonical (p : Option Pending) (r : Response) {vars : List (Nat × Response)}
    (h : Vars.Canonical vars) : Vars.Canonical (bindResponse p r vars) := by
  unfold bindResponse
  split
  · exact Vars.set_canonical _ _ h
  · exact h

theorem mem_bindResponse {p : Option Pending} {r : Response} {vars : List (Nat × Response)} {e : Nat × Response}
    (h : e ∈ bindResponse p r vars) : e.2 = r ∨ e ∈ vars := by
  unfold bindResponse at h
  split at h
  · rcases Vars.mem_set h with rfl | h
    · exact .inl rfl
    · exact .inr h
  · exact .inr h

end Sys2Proof.Machine
end

