-- ==== Sys2Proof/Laws/Codec.lean ====
section
/-! SUPPORT. The codec and the parser: each bit of a mask, a placed field, a cut field and a big-endian value, and what
`exec` can do. -/

namespace Sys2Proof.Machine

theorem layout_wf_iff (L : Layout) :
    L.wf = true ↔ L.idBits + L.commandBits + L.payloadBits = 16 ∧ 1 ≤ L.idBits ∧ 1 ≤ L.commandBits ∧ 1 ≤ L.payloadBits := by
  simp [Layout.wf, and_assoc]

theorem getLsbD_mask (n k : Nat) : (mask n).getLsbD k = (decide (k < 16) && decide (k < n)) := by
  simp [mask, BitVec.getLsbD_ofNat, Nat.testBit_two_pow_sub_one]

theorem getLsbD_placeField (v : Word16) (bits shift k : Nat) :
    (placeField v bits shift).getLsbD k
      = (decide (k < 16) && decide (shift ≤ k) && decide (k - shift < bits) && v.getLsbD (k - shift)) := by
  simp only [placeField, BitVec.getLsbD_shiftLeft, BitVec.getLsbD_and, getLsbD_mask]
  grind

theorem getLsbD_cutField (w : Word16) (bits shift k : Nat) :
    (cutField w bits shift).getLsbD k = (decide (k < 16) && decide (k < bits) && w.getLsbD (shift + k)) := by
  simp only [cutField, BitVec.getLsbD_and, BitVec.getLsbD_ushiftRight, getLsbD_mask]
  grind

theorem mask_toNat {n : Nat} (h : n ≤ 16) : (mask n).toNat = 2 ^ n - 1 := by
  have : 2 ^ n ≤ 2 ^ 16 := Nat.pow_le_pow_right (by omega) h
  simp only [mask, BitVec.toNat_ofNat]
  exact Nat.mod_eq_of_lt (by omega)

theorem cutField_toNat (w : Word16) {bits : Nat} (shift : Nat) (h : bits ≤ 16) :
    (cutField w bits shift).toNat = (w.toNat >>> shift) &&& (2 ^ bits - 1) := by
  simp [cutField, mask_toNat h]

theorem placeField_toNat (v : Word16) {bits shift : Nat} (h : bits + shift ≤ 16) :
    (placeField v bits shift).toNat = (v.toNat &&& (2 ^ bits - 1)) <<< shift := by
  have hb : v.toNat &&& (2 ^ bits - 1) < 2 ^ bits := by
    rw [Nat.and_two_pow_sub_one_eq_mod]; exact Nat.mod_lt _ (by positivity)
  have hs : (v.toNat &&& (2 ^ bits - 1)) <<< shift < 2 ^ 16 := by
    rw [Nat.shiftLeft_eq]
    calc _ < 2 ^ bits * 2 ^ shift := Nat.mul_lt_mul_of_pos_right hb (by positivity)
      _ = 2 ^ (bits + shift) := (Nat.pow_add ..).symm
      _ ≤ 2 ^ 16 := Nat.pow_le_pow_right (by omega) h
  simp only [placeField, BitVec.toNat_shiftLeft, BitVec.toNat_and, mask_toNat (show bits ≤ 16 by omega)]
  exact Nat.mod_eq_of_lt hs

theorem encodeWord_toNat {L : Layout} (h : L.wf = true) (i c p : Word16) :
    (encodeWord L i c p).toNat = ((i.toNat &&& (2 ^ L.idBits - 1)) <<< (L.commandBits + L.payloadBits)) |||
      ((c.toNat &&& (2 ^ L.commandBits - 1)) <<< L.payloadBits) ||| (p.toNat &&& (2 ^ L.payloadBits - 1)) := by
  have := (layout_wf_iff L).1 h
  simp only [encodeWord, BitVec.toNat_or, idShift, commandShift, payloadShift]
  rw [placeField_toNat _ (by omega), placeField_toNat _ (by omega), placeField_toNat _ (by omega)]
  simp

theorem getLsbD_encodeWord {L : Layout} (h : L.wf = true) (i c p : Word16) {k : Nat} (hk : k < 16) :
    (encodeWord L i c p).getLsbD k =
      if k < L.payloadBits then p.getLsbD k
      else if k < L.commandBits + L.payloadBits then c.getLsbD (k - L.payloadBits)
      else i.getLsbD (k - (L.commandBits + L.payloadBits)) := by
  have := (layout_wf_iff L).1 h
  simp only [encodeWord, BitVec.getLsbD_or, getLsbD_placeField, idShift, commandShift, payloadShift]
  split_ifs <;> simp <;> grind

theorem be2_eq_append (b0 b1 : Byte) : be2 b0 b1 = b0 ++ b1 := by
  apply BitVec.eq_of_getLsbD_eq
  intro k hk
  simp only [be2, BitVec.getLsbD_or, BitVec.getLsbD_shiftLeft, BitVec.getLsbD_setWidth, BitVec.getLsbD_append]
  grind

theorem be3_eq_append (b0 b1 b2 : Byte) : be3 b0 b1 b2 = (b0 ++ b1) ++ b2 := by
  apply BitVec.eq_of_getLsbD_eq
  intro k hk
  simp only [be3, BitVec.getLsbD_or, BitVec.getLsbD_shiftLeft, BitVec.getLsbD_setWidth, BitVec.getLsbD_append]
  grind

@[simp] theorem be2_toNat (b0 b1 : Byte) : (be2 b0 b1).toNat = b0.toNat * 256 + b1.toNat := by
  rw [be2_eq_append, BitVec.toNat_append, ← Nat.shiftLeft_add_eq_or_of_lt b1.isLt, Nat.shiftLeft_eq]

@[simp] theorem be3_toNat (b0 b1 b2 : Byte) :
    (be3 b0 b1 b2).toNat = b0.toNat * 65536 + b1.toNat * 256 + b2.toNat := by
  rw [be3_eq_append, BitVec.toNat_append, ← Nat.shiftLeft_add_eq_or_of_lt b2.isLt, BitVec.toNat_append,
    ← Nat.shiftLeft_add_eq_or_of_lt b1.isLt, Nat.shiftLeft_eq, Nat.shiftLeft_eq]
  omega

/-- The response an operation gets under a configuration: the block's own function (10_state.md R16). -/
def responseTo (c : Integration) : Instr → Response
  | .enc a b p => encodeResponse c.layout a b p
  | .decw w => .decoded (decodeWord c.layout c.cmdTable w)
  | .decb b0 b1 => .decoded (decodeWord c.layout c.cmdTable (be2 b0 b1))
  | .parse B => parseResponse B

/-- All that `exec` can do: it serves the operation's response. -/
theorem exec_eq_serve (i : Instr) (s : State) : exec i s = s.serve (responseTo s.cfg i) := by
  cases i <;> rfl

theorem exec_of_wf {s : State} (i : Instr) (h : s.cfg.layout.wf = true) :
    exec i s = .next (s.deliver (responseTo s.cfg i)) := by
  rw [exec_eq_serve, serve_of_wf _ h]

theorem exec_eq_next {i : Instr} {s t : State} (h : exec i s = .next t) :
    s.cfg.layout.wf = true ∧ t = s.deliver (responseTo s.cfg i) :=
  serve_eq_next (exec_eq_serve i s ▸ h)

end Sys2Proof.Machine
end

