-- ==== Sys2Proof/Laws/Host.lean ====
section
/-! SUPPORT. What the host, the transport and the sequencer can do, said once: the outcome of a branch, of a line that needs
the transport, of a script of sends and waits, and of any line of a script. -/

namespace Sys2Proof.Machine

theorem branch_eq_next {b : Bool} {l : Nat} {s t : State} (h : branch b l s = .next t) : ∃ p, t = s.goto p := by
  unfold branch at h
  split_ifs at h
  · split at h <;> cases h
    exact ⟨_, rfl⟩
  · cases h; exact ⟨_, rfl⟩

theorem branch_ne_fault (b : Bool) (l : Nat) (s : State) (f : Fault) : branch b l s ≠ .fault f := by
  unfold branch
  split_ifs
  · split <;> simp
  · simp

/-- A branch to a label the script defines always goes on. -/
theorem branch_of_label {l p : Nat} {s : State} (b : Bool) (h : findLabel s l = some p) :
    branch b l s = .next (s.goto (if b then p else s.pos + 1)) := by
  cases b <;> simp [branch, h, State.advance]

/-- `bok rN` is a branch: on the status of the response, or on a free choice. -/
theorem hostBokResponse_eq_branch (n l : Nat) (s : State) :
    ∃ c, hostBokResponse n l s = branch c l s := by
  unfold hostBokResponse
  split
  · exact ⟨_, rfl⟩
  · exact ⟨_, rfl⟩

theorem withTransport_of_ne_none {s : State} (o : Outcome) (h : s.serial ≠ none) : withTransport s o = o := by
  unfold withTransport
  split
  · rfl
  · exact absurd ‹_› h

theorem withTransport_eq_next {s t : State} {o : Outcome} (h : withTransport s o = .next t) :
    s.serial ≠ none ∧ o = .next t := by
  unfold withTransport at h
  split at h
  · exact ⟨by simp [*], h⟩
  · cases h

theorem onValue_eq_next {α : Type} {x : Except Refusal α} {f : α → Outcome} {t : State} (h : onValue x f = .next t) :
    ∃ a, x = .ok a ∧ f a = .next t := by
  cases x with
  | ok a => exact ⟨a, rfl, h⟩
  | error e => cases h

theorem onValue_eq_fault {α : Type} {x : Except Refusal α} {f : α → Outcome} {r : Fault} (h : onValue x f = .fault r) :
    ∃ a, x = .ok a ∧ f a = .fault r := by
  cases x with
  | ok a => exact ⟨a, rfl, h⟩
  | error e => cases h

/-- The bytes a script sends, in order. -/
def actionSends (as : List SeqAction) : List Byte :=
  as.filterMap fun a => match a with | .send b => some b | .wait _ => none

/-- The ms a script waits in all. -/
def actionWaits (as : List SeqAction) : Nat :=
  (as.map fun a => match a with | .send _ => 0 | .wait ms => ms).sum

/-- A script of sends and waits changes the line and the clock and nothing else. -/
theorem runActions_eq (as : List SeqAction) (s : State) :
    runActions as s = (s.putOnLine (actionSends as)).sleep (actionWaits as) := by
  induction as generalizing s with
  | nil => simp [runActions, actionSends, actionWaits, State.putOnLine, State.sleep]
  | cons a rest ih =>
    cases a <;>
      simp [runActions, runAction, ih, sendByte, actionSends, actionWaits, State.putOnLine, State.sleep, Nat.add_assoc]

@[simp] theorem drawBytes_length (k n : Nat) (bs : List Byte) : (drawBytes k n bs).length = n := by
  simp [drawBytes]

/-- A draw that lists all the bytes gives them as they are. -/
theorem drawBytes_full (k : Nat) (bs : List Byte) : drawBytes k bs.length bs = bs := by
  apply List.ext_getElem <;> simp +contextual [drawBytes, List.getD]

theorem readOutcome_whole {bs : List Byte} (n : Nat) (s : State) : readOutcome n s = .bytes bs → bs.length = n := by
  unfold readOutcome
  split_ifs
  · intro h; cases h; simp
  · intro h; cases h

/-- A number that fits its port is on it as it is. -/
theorem fitPort_of_lt {v : Value} {n w : Nat} (k place : Nat) (hv : v.number = some n) (h : n < 2 ^ w) :
    fitPort k place w v = .ok (BitVec.ofNat w n) := by
  cases v <;> simp_all [Value.number, fitPort]

/-- Every number goes onto every port, as it is or as a free value. -/
theorem fitPort_of_number {v : Value} {n : Nat} (k place w : Nat) (hv : v.number = some n) :
    ∃ x, fitPort k place w v = .ok x := by
  cases v <;> simp_all [Value.number, fitPort]

/-- An operand has a value, but for a field that the response in its variable has not. -/
theorem evalOperand_eq_error {s : State} {a : Operand} {e : Refusal} (h : evalOperand s a = .error e) :
    ∃ r f resp, a = .result r f ∧ Vars.get s.rvars r = some resp ∧ resultField resp f = none ∧ e = .noSuchResult r := by
  cases a with
  | lit n => cases h
  | result r f =>
    simp only [evalOperand] at h
    split at h
    · cases h
    · split at h <;> cases h
      exact ⟨r, f, _, rfl, ‹_›, ‹_›, rfl⟩
  | read t =>
    simp only [evalOperand] at h
    split at h <;> cases h

/-- All that a line of the host can do when it goes on: stop at `halt`, move the position, put a request on the ports, bind a read, send
bytes, or run a sequencer script. -/
theorem hostLine_eq_next {x : Line} {s t : State} (h : hostLine x s = .next t) :
    (x = .halt ∧ t = s) ∨
    (∃ p, t = s.goto p) ∨
    (∃ n q i, x = .request n q ∧ formInstr s q = .ok (some i) ∧ t = (s.issue (some n) (encode i)).advance) ∨
    (∃ n k, x = .read n k ∧ s.serial ≠ none ∧
      t = ((afterRead s).bindRead n { asked := k, result := readOutcome k s }).advance) ∨
    (∃ bs, s.serial ≠ none ∧ t = (s.putOnLine bs).advance) ∨
    (∃ op arg, x = .sequencer op arg ∧ s.serial ≠ none ∧ t = (runActions (Config.seqScript op arg) s).advance) := by
  cases x with
  | comment => cases h; exact .inr (.inl ⟨_, rfl⟩)
  | label l => cases h; exact .inr (.inl ⟨_, rfl⟩)
  | request n q =>
    obtain ⟨i, hi, ht⟩ := onValue_eq_next h
    cases ht
    cases i with
    | some i => exact .inr (.inr (.inl ⟨n, q, i, rfl, hi, rfl⟩))
    | none => exact .inr (.inl ⟨_, rfl⟩)
  | read n k =>
    obtain ⟨hs, ht⟩ := withTransport_eq_next h
    cases ht
    exact .inr (.inr (.inr (.inl ⟨n, k, rfl, hs, rfl⟩)))
  | send a =>
    obtain ⟨v, -, ht⟩ := onValue_eq_next h
    obtain ⟨hs, ht⟩ := withTransport_eq_next ht
    cases ht
    exact .inr (.inr (.inr (.inr (.inl ⟨_, hs, rfl⟩))))
  | bokResponse n l =>
    obtain ⟨c, hc⟩ := hostBokResponse_eq_branch n l s
    exact .inr (.inl (branch_eq_next (hc.symm.trans h)))
  | bokRead n l => exact .inr (.inl (branch_eq_next h))
  | beq a b l =>
    obtain ⟨x, -, ht⟩ := onValue_eq_next h
    obtain ⟨y, -, ht⟩ := onValue_eq_next ht
    exact .inr (.inl (branch_eq_next ht))
  | jmp l => exact .inr (.inl (branch_eq_next h))
  | halt => cases h; exact .inl ⟨rfl, rfl⟩
  | sequencer op arg =>
    simp only [hostLine, hostSequencer] at h
    split_ifs at h
    · obtain ⟨hs, ht⟩ := withTransport_eq_next h
      cases ht
      exact .inr (.inr (.inr (.inr (.inr ⟨op, arg, rfl, hs, rfl⟩))))
    · cases h; exact .inr (.inl ⟨_, rfl⟩)

/-- A line of the host faults only where the transport is not created yet. -/
theorem hostLine_eq_fault {x : Line} {s : State} {f : Fault} (h : hostLine x s = .fault f) : s.serial = none := by
  by_contra hs
  cases x with
  | comment => cases h
  | label l => cases h
  | request n q => obtain ⟨i, -, ht⟩ := onValue_eq_fault h; cases ht
  | read n k => rw [hostLine, hostRead, withTransport_of_ne_none _ hs] at h; cases h
  | send a =>
    obtain ⟨bs, -, ht⟩ := onValue_eq_fault h
    rw [withTransport_of_ne_none _ hs] at ht; cases ht
  | bokResponse n l =>
    obtain ⟨c, hc⟩ := hostBokResponse_eq_branch n l s
    exact branch_ne_fault _ _ _ _ (hc.symm.trans h)
  | bokRead n l => exact branch_ne_fault _ _ _ _ h
  | beq a b l =>
    obtain ⟨x, -, ht⟩ := onValue_eq_fault h
    obtain ⟨y, -, ht⟩ := onValue_eq_fault ht
    exact branch_ne_fault _ _ _ _ ht
  | jmp l => exact branch_ne_fault _ _ _ _ h
  | halt => cases h
  | sequencer op arg =>
    simp only [hostLine, hostSequencer] at h
    split_ifs at h
    · rw [withTransport_of_ne_none _ hs] at h; cases h

theorem step_of_pending {s : State} {p : Pending} (h : s.pending = some p) : step s = exec (decode p.request) s := by
  simp [step, h]

theorem step_of_idle_ports {s : State} (h : s.pending = none) : step s = hostStep s := by
  simp [step, h]

/-- All that a step can do: serve the request on the ports, idle past the script's end, or run a line of the host. -/
theorem step_eq_next {s t : State} (h : step s = .next t) :
    (∃ p, s.pending = some p ∧ s.cfg.layout.wf = true ∧ t = s.deliver (responseTo s.cfg (decode p.request))) ∨
    (s.pending = none ∧ t = s) ∨
    (∃ x, s.pending = none ∧ s.script[s.pos]? = some x ∧ hostLine x s = .next t) := by
  cases hp : s.pending with
  | some p =>
    rw [step_of_pending hp] at h
    exact .inl ⟨p, rfl, exec_eq_next h⟩
  | none =>
    rw [step_of_idle_ports hp, hostStep] at h
    cases hx : s.script[s.pos]? with
    | some x =>
      simp only [hx] at h
      exact .inr (.inr ⟨x, rfl, rfl, h⟩)
    | none =>
      simp only [hx] at h
      cases h
      exact .inr (.inl ⟨rfl, rfl⟩)

/-- One step of a run that goes on. -/
theorem core_run_succ {k : Nat} {s t : State} (h : step s = .next t) :
    Sys2Proof.core.run (k + 1) s = Sys2Proof.core.run k t := by
  have h' : Sys2Proof.core.step s = .next t := h
  simp only [Host.Core.run, h']

/-- A line of the host at the position counter, with no request on the ports. -/
theorem step_of_line {s : State} {x : Line} (h : s.pending = none) (hx : s.script[s.pos]? = some x) :
    step s = hostLine x s := by
  rw [step_of_idle_ports h, hostStep, hx]

end Sys2Proof.Machine
end

