-- ==== Sys2Proof/Laws/PerInstr.lean ====
section
/-! SUPPORT. Statements made for every operation as syntax. Family OpPort: the encoder drives the operation's own `op`
value, and leaves every port that the operation does not read at zero (30_encoding.md R39, R40). -/

namespace Sys2Proof.Laws.OpPort

/-- The encoder drives `op` and the operation's own ports and no other. -/
def Statement (i : Instr) : Prop :=
  (encode i).op = opcode i ∧
  match i with
  | .enc _ _ _ => (encode i).wordIn = 0 ∧ (encode i).byte0In = 0 ∧ (encode i).byte1In = 0 ∧ (encode i).frameIn = []
  | .decw _ => (encode i).idIn = 0 ∧ (encode i).commandIn = 0 ∧ (encode i).payloadIn = 0 ∧ (encode i).byte0In = 0
      ∧ (encode i).byte1In = 0 ∧ (encode i).frameIn = []
  | .decb _ _ => (encode i).idIn = 0 ∧ (encode i).commandIn = 0 ∧ (encode i).payloadIn = 0 ∧ (encode i).wordIn = 0
      ∧ (encode i).frameIn = []
  | .parse _ => (encode i).idIn = 0 ∧ (encode i).commandIn = 0 ∧ (encode i).payloadIn = 0 ∧ (encode i).wordIn = 0
      ∧ (encode i).byte0In = 0 ∧ (encode i).byte1In = 0

theorem enc (a b c : Word16) : Statement (.enc a b c) := ⟨rfl, rfl, rfl, rfl, rfl⟩

theorem decw (w : Word16) : Statement (.decw w) := ⟨rfl, rfl, rfl, rfl, rfl, rfl, rfl⟩

theorem decb (b0 b1 : Byte) : Statement (.decb b0 b1) := ⟨rfl, rfl, rfl, rfl, rfl, rfl⟩

theorem parse (f : List Byte) : Statement (.parse f) := ⟨rfl, rfl, rfl, rfl, rfl, rfl, rfl⟩

end Sys2Proof.Laws.OpPort
end

