-- ==== Sys2Proof/Tests/Slice0.lean ====
section
/-! SUPPORT. The model's own tests: an ill-formed term for each well-formedness check, the decoding of each operation from
its ports as the spec writes them, the worked examples and vectors of 95_test_vectors.md, and a witness for the
hypotheses of each statement. -/

namespace Sys2Proof.Tests

open Sys2Proof Sys2Proof.Machine

/-! ### Well-formedness -/

theorem test_wf_presets : Layout.l448.wf = true ∧ Layout.l3310.wf = true := by decide

theorem test_wf_layout_refuses_a_sum_of_15 : Layout.wf ⟨4, 4, 7⟩ = false := by decide

theorem test_wf_layout_refuses_each_zero_width :
    Layout.wf ⟨0, 8, 8⟩ = false ∧ Layout.wf ⟨8, 0, 8⟩ = false ∧ Layout.wf ⟨8, 8, 0⟩ = false := by decide

theorem test_wf_table_refuses_a_code_too_wide : CmdTable.wf Layout.l3310 [(5, .test), (8, .named 1)] = false := by decide

theorem test_wf_table_refuses_a_code_twice : CmdTable.wf Layout.l3310 [(5, .test), (5, .named 1)] = false := by decide

/-- R9, D6: TEST = 0b101 is fixed under L3310, and only there. -/
theorem test_wf_table_keeps_the_source_entry :
    CmdTable.wf Layout.l3310 [] = false ∧ CmdTable.wf Layout.l3310 [(5, .named 1)] = false
      ∧ CmdTable.wf Layout.l3310 [(4, .named 1), (5, .test)] = true ∧ CmdTable.wf Layout.l448 [] = true := by decide

theorem test_wf_table_accepts_the_source : CmdTable.wf Layout.l3310 (CmdTable.source Layout.l3310) = true := by decide

theorem test_wf_integration_refuses_its_layout :
    Integration.wf { Integration.recommended with layout := ⟨4, 4, 7⟩ } = false := by decide

theorem test_wf_script_refuses_a_label_twice : Script.labelsUnique [.label 1, .halt, .label 1] = false := by decide

theorem test_wf_script_refuses_an_undefined_target : Script.targetsDefined [.jmp 1, .label 2] = false := by decide

theorem test_wf_script_refuses_a_variable_written_by_two_lines :
    Script.writtenOnce [.request 1 (.decw (.lit 0)), .request 1 (.decw (.lit 1))] = false
      ∧ Script.writtenOnce [.read 1 18, .read 1 18] = false := by decide

theorem test_wf_script_refuses_a_variable_never_written : Script.usesWritten [.send (.result 1 .wordOut)] = false := by
  decide

theorem test_wf_script_refuses_a_literal_too_wide :
    Script.literalsFit [.request 1 (.decw (.lit 0x10000))] = false
      ∧ Script.literalsFit [.request 1 (.decb (.lit 0x100) (.lit 0))] = false := by decide

theorem test_wf_script_refuses_an_unknown_name :
    Script.namesKnown Integration.recommended [.request 1 (.encn .test (.lit 5) (.lit 0))] = false := by decide

theorem test_wf_script_accepts_the_report_read :
    Script.wf Integration.recommended (reportReadLines 1 1 1 2) = true := by decide

/-! ### Decoding: port values written out from 30_encoding.md R39 and R40, other ports set to something else -/

theorem test_decode_enc :
    decode ⟨0b00#2, 0x0007#16, 0x0002#16, 0x00FF#16, 0xFFFF#16, 0xFF#8, 0xFF#8, [0xFF#8]⟩
      = .enc 0x0007#16 0x0002#16 0x00FF#16 := by decide

theorem test_decode_decw :
    decode ⟨0b01#2, 0x0007#16, 0x0002#16, 0x00FF#16, 0xB555#16, 0xFF#8, 0xFF#8, [0xFF#8]⟩ = .decw 0xB555#16 := by decide

theorem test_decode_decb :
    decode ⟨0b10#2, 0x0007#16, 0x0002#16, 0x00FF#16, 0xFFFF#16, 0x72#8, 0xFF#8, [0xFF#8]⟩ = .decb 0x72#8 0xFF#8 := by
  decide

theorem test_decode_parse :
    decode ⟨0b11#2, 0x0007#16, 0x0002#16, 0x00FF#16, 0xFFFF#16, 0x72#8, 0xFF#8, [0x01#8, 0x02#8]⟩
      = .parse [0x01#8, 0x02#8] := by decide

theorem test_table_words :
    decodeTableWord 8 0 = some (.enc 0 0 0) ∧ decodeTableWord 8 1 = some (.decw 0)
      ∧ decodeTableWord 8 2 = some (.decb 0 0) ∧ decodeTableWord 8 3 = some (.parse []) := by decide

/-! ### Vectors of 95_test_vectors.md, one step on a small state -/

/-- Reset under a layout with the source's command table. -/
def at0 (L : Layout) : State :=
  State.resetWith { Integration.recommended with layout := L, cmdTable := CmdTable.source L }

/-- The state after an operation on `at0`, if there is one. -/
def after (L : Layout) (i : Instr) : Option State :=
  match exec i (at0 L) with
  | .next t => some t
  | .fault _ => none
  | .refused _ => none

/-- The response of an operation on `at0`. -/
def answer (L : Layout) (i : Instr) : Option Response :=
  (after L i).bind State.response

/-- V-L1-1 and E4: each operand of E4 is one bit too wide. -/
theorem test_enc_l448 :
    answer .l448 (.enc 0x07#16 0x02#16 0xFF#16) = some (.encoded 0x72FF#16 0x72#8 0xFF#8)
      ∧ answer .l448 (.enc 0x17#16 0x12#16 0x1AB#16) = some (.encoded 0x72AB#16 0x72#8 0xAB#8) := by decide

/-- V-L1-2 (unmasked) and E17. -/
theorem test_enc_l3310 :
    answer .l3310 (.enc 0x05#16 0x05#16 0xFD55#16) = some (.encoded 0xB555#16 0xB5#8 0x55#8)
      ∧ answer .l3310 (.enc 0xD#16 0xE#16 0xFFF#16) = some (.encoded 0xBBFF#16 0xBB#8 0xFF#8) := by decide

/-- D6 under L3310, with the source's command table: Known(TEST). -/
theorem test_decw_known :
    answer .l3310 (.decw 0xB555#16) = some (.decoded ⟨0x5#16, 0x5#16, 0x155#16, .known .test⟩) := by decide

/-- D3 under L3310 (Unknown(4)) and D4 under L448. -/
theorem test_decw_unknown :
    answer .l3310 (.decw 0x72FF#16) = some (.decoded ⟨0x3#16, 0x4#16, 0x2FF#16, .unknown 4#16⟩)
      ∧ answer .l448 (.decw 0x8001#16) = some (.decoded ⟨0x8#16, 0x0#16, 0x01#16, .unknown 0#16⟩) := by decide

/-- B1 and B2: the order of the bytes matters. -/
theorem test_decb_l448 :
    answer .l448 (.decb 0x72#8 0xFF#8) = some (.decoded ⟨0x7#16, 0x2#16, 0xFF#16, .unknown 2#16⟩)
      ∧ answer .l448 (.decb 0xFF#8 0x72#8) = some (.decoded ⟨0xF#16, 0xF#16, 0x72#16, .unknown 0xF#16⟩) := by decide

/-- B2 and B4 under L3310. -/
theorem test_decb_l3310 :
    answer .l3310 (.decb 0xFF#8 0x72#8) = some (.decoded ⟨0x7#16, 0x7#16, 0x372#16, .unknown 7#16⟩)
      ∧ answer .l3310 (.decb 0x00#8 0x01#8) = some (.decoded ⟨0#16, 0#16, 1#16, .unknown 0#16⟩) := by decide

/-- The frame of V-L1-3. -/
def frameL13 : List Byte :=
  [0xAA#8, 0x01#8, 0x02#8, 0x10#8, 0x20#8, 0x30#8, 0x00#8, 0x05#8, 0x01#8, 0x03#8, 0x00#8, 0x01#8, 0x00#8, 0x12#8, 0x34#8,
    0x55#8, 0x05#8, 0x55#8]

/-- V-L1-3, with `tb_valid = 1` (90_conflicts.md C1). -/
theorem test_parse_l13 :
    answer .l448 (.parse frameL13) = some (.parsed
      ⟨0xAA#8, 0x0102#16, 0x10#8, 0x20#8, 0x30#8, 0x0005#16, 0x01#8, 0x03#8, 0x000100#24, 0x1234#16, 1#2, 5#4, 1#1, 0#1, 1#1,
        1#2, 0x55#8⟩) := by decide

/-- P3 and P11: every byte at its own place, and no parsing of the first 18 of 19. -/
theorem test_parse_places_and_length :
    answer .l448 (.parse ((List.range 18).map (BitVec.ofNat 8))) = some (.parsed
      ⟨0x00#8, 0x0102#16, 0x03#8, 0x04#8, 0x05#8, 0x0607#16, 0x08#8, 0x09#8, 0x0A0B0C#24, 0x0D0E#16, 3#2, 3#4, 0#1, 0#1, 0#1,
        0#2, 0x11#8⟩)
      ∧ answer .l448 (.parse (frameL13 ++ [0x00#8])) = some (.lengthError 19) := by decide

/-- H1 and H2: the holder. -/
theorem test_holder :
    (after .l448 (.parse (List.replicate 17 0#8))).map State.holder = some none
      ∧ (after .l448 (.parse frameL13)).bind State.holder = (match answer .l448 (.parse frameL13) with
          | some (.parsed r) => some r
          | _ => none) := by decide

/-- The host's check in small: the table word is the first thing the machine runs. -/
theorem test_fetch_word_runs :
    step (State.reset.withFetchWord 8 3) = .next ((State.reset.withFetchWord 8 3).deliver (.lengthError 0)) := by rfl

/-- R94 and the first draw of Program 2: on TimeoutError PARSE is not called and the holder stays. -/
theorem test_parse_of_a_timed_out_read_is_not_called :
    step { State.reset with script := [.request 1 (.parseRead 1)], tvars := [(1, ⟨18, .timeoutError⟩)] }
      = .next ({ State.reset with script := [.request 1 (.parseRead 1)], tvars := [(1, ⟨18, .timeoutError⟩)] } : State).advance := by
  rfl

/-- R51 with R87: `beq t1, t1` is taken on TimeoutError, and bytes beside TimeoutError are not equal. -/
theorem test_beq_of_reads_that_timed_out :
    let s (x : Line) : State :=
      { State.reset with script := [x, .label 1], tvars := [(1, ⟨1, .timeoutError⟩), (2, ⟨1, .bytes [7#8]⟩)], pos := 0 }
    step (s (.beq (.read 1) (.read 1) 1)) = .next ((s (.beq (.read 1) (.read 1) 1)).goto 1)
      ∧ step (s (.beq (.read 1) (.read 2) 1)) = .next (s (.beq (.read 1) (.read 2) 1)).advance :=
  ⟨rfl, rfl⟩

/-! ### The sequencer's bytes (95_test_vectors.md 2.6) -/

theorem test_channel_bytes :
    (List.range 14).map channelByte = [none, some 0x31#8, some 0x32#8, some 0x33#8, some 0x34#8, some 0x35#8, some 0x36#8,
      some 0x37#8, some 0x38#8, some 0x39#8, some 0x61#8, some 0x62#8, some 0x63#8, none] := by decide

theorem test_power_bytes :
    (List.range 6).map powerByte = [none, some 0x31#8, some 0x32#8, some 0x33#8, some 0x34#8, none] := by decide

/-! ### Witnesses: states and operands that meet the hypotheses of each statement -/

/-- Reset with one line as the host's script. -/
def host (x : Line) : State :=
  { State.reset with script := [x] }

/-- Reset with one response in r1, and with one read in t1. -/
def vars (r : Response) (t : ReadRecord) (x : Line) : State :=
  { host x with rvars := [(1, r)], tvars := [(1, t)] }

/-- A request of an operation on the request ports, its response for r1. -/
def waiting (i : Instr) : State :=
  State.reset.issue (some 1) (encode i)

theorem reset_wf : State.reset.cfg.layout.wf = true := by decide

theorem at0_wf_l3310 : (at0 .l3310).cfg.layout.wf = true := by decide

theorem witness_OpSelectChoosesTheOperation :
    (encode (.enc 1 2 3)).op = 0b00#2 ∧ (encode (.decw 1)).op = 0b01#2 ∧ (encode (.decb 1 2)).op = 0b10#2
      ∧ (encode (.parse [1])).op = 0b11#2 := by decide

/-- For each `op`, two requests that agree on its own ports and differ on another. -/
theorem witness_OtherPortsAreIgnored :
    (let r := encode (.enc 1 2 3); let r' := { r with wordIn := 9 }
      r ≠ r' ∧ r.op = r'.op ∧ r.op = 0b00#2 ∧ r.idIn = r'.idIn ∧ r.commandIn = r'.commandIn ∧ r.payloadIn = r'.payloadIn)
      ∧ (let r := encode (.decw 5); let r' := { r with idIn := 9 }
        r ≠ r' ∧ r.op = r'.op ∧ r.op = 0b01#2 ∧ r.wordIn = r'.wordIn)
      ∧ (let r := encode (.decb 5 6); let r' := { r with frameIn := [9] }
        r ≠ r' ∧ r.op = r'.op ∧ r.op = 0b10#2 ∧ r.byte0In = r'.byte0In ∧ r.byte1In = r'.byte1In)
      ∧ (let r := encode (.parse [1, 2]); let r' := { r with byte1In := 9 }
        r ≠ r' ∧ r.op = r'.op ∧ r.op = 0b11#2 ∧ r.frameIn = r'.frameIn) := by decide

theorem witness_StepRunsTheDecodedOperation :
    (∃ p, (waiting (.decw 0x72FF#16)).pending = some p ∧ decode p.request = .decw 0x72FF#16)
      ∧ ((host .halt).pending = none ∧ (host .halt).script[(host .halt).pos]? = some .halt)
      ∧ (State.reset.pending = none ∧ State.reset.script[State.reset.pos]? = none) :=
  ⟨⟨_, rfl, rfl⟩, ⟨rfl, rfl⟩, ⟨rfl, rfl⟩⟩

theorem witness_EncodePacksMaskedFields : State.reset.cfg.layout.wf = true := reset_wf

theorem witness_WordFieldsCoverTheWord : State.reset.cfg.layout.wf = true := reset_wf

theorem witness_EncodeExtremesUnderEveryLayout : (at0 ⟨1, 1, 14⟩).cfg.layout.wf = true := by decide

theorem witness_DecodeWordCutsTheFields : State.reset.cfg.layout.wf = true := reset_wf

theorem witness_DecodeBytesIsDecodeOfTheBigEndianWord :
    State.reset.cfg.layout.wf = true ∧ (0x72FF#16).toNat = (0x72#8).toNat * 256 + (0xFF#8).toNat := by decide

theorem witness_ByteOrderAgreement :
    (0x72#8).toNat = (0x72FF#16).toNat / 256 ∧ (0xFF#8).toNat = (0x72FF#16).toNat % 256 := by decide

theorem witness_EncodeDependsOnLowBitsOnly :
    State.reset.cfg.layout.wf = true
      ∧ (0x17#16).toNat % 2 ^ State.reset.cfg.layout.idBits = (0x07#16).toNat % 2 ^ State.reset.cfg.layout.idBits
      ∧ (0x12#16).toNat % 2 ^ State.reset.cfg.layout.commandBits
          = (0x02#16).toNat % 2 ^ State.reset.cfg.layout.commandBits
      ∧ (0x1AB#16).toNat % 2 ^ State.reset.cfg.layout.payloadBits
          = (0xAB#16).toNat % 2 ^ State.reset.cfg.layout.payloadBits := by decide

theorem witness_EncodeThenDecodeReturnsTheTriple :
    State.reset.cfg.layout.wf = true ∧ (waiting (.decw 0)).cfg = State.reset.cfg
      ∧ (0xF#16).toNat < 2 ^ State.reset.cfg.layout.idBits ∧ (0xF#16).toNat < 2 ^ State.reset.cfg.layout.commandBits
      ∧ (0xFF#16).toNat < 2 ^ State.reset.cfg.layout.payloadBits := by decide

theorem witness_DecodeThenEncodeReturnsTheWord :
    State.reset.cfg.layout.wf = true
      ∧ ∃ t d, exec (.decw 0x72FF#16) State.reset = .next t ∧ t.response = some (.decoded d)
        ∧ d.idOut = 0x7#16 ∧ d.commandOut = 0x2#16 ∧ d.payloadOut = 0xFF#16 :=
  ⟨reset_wf, _, _, exec_of_wf _ reset_wf, rfl, rfl, rfl, rfl⟩

theorem witness_PresetFieldPositions :
    (at0 .l448).cfg.layout = Layout.l448 ∧ (at0 .l3310).cfg.layout = Layout.l3310 := by decide

/-- One word with an entry in the table and one without. -/
theorem witness_CommandClassFollowsTheTable :
    (at0 .l3310).cfg.layout.wf = true ∧ CmdTable.wf (at0 .l3310).cfg.layout (at0 .l3310).cfg.cmdTable = true
      ∧ (∃ t d, exec (.decw 0xB555#16) (at0 .l3310) = .next t ∧ t.response = some (.decoded d)
        ∧ (d.commandOut.toNat, CmdName.test) ∈ (at0 .l3310).cfg.cmdTable)
      ∧ (∃ t d, exec (.decw 0x72FF#16) (at0 .l3310) = .next t ∧ t.response = some (.decoded d)
        ∧ ∀ name, (d.commandOut.toNat, name) ∉ (at0 .l3310).cfg.cmdTable)
      ∧ (at0 .l3310).cfg.layout = Layout.l3310
      ∧ ∃ t d, exec (.decw 0xB555#16) (at0 .l3310) = .next t ∧ t.response = some (.decoded d)
        ∧ d.commandOut.toNat = 0b101 := by
  refine ⟨by decide, by decide, ⟨_, _, exec_of_wf _ at0_wf_l3310, rfl, by decide⟩,
    ⟨_, _, exec_of_wf _ at0_wf_l3310, rfl, fun name h => ?_⟩, rfl, ⟨_, _, exec_of_wf _ at0_wf_l3310, rfl, by decide⟩⟩
  have hT : (at0 .l3310).cfg.cmdTable = [(5, .test)] := by decide
  rw [hT] at h
  have h5 : 4 = 5 := congrArg Prod.fst (List.mem_singleton.1 h)
  exact absurd h5 (by decide)

theorem witness_LayoutMismatchIsNotDetected :
    (at0 .l448).cfg.layout = Layout.l448 ∧ (at0 .l3310).cfg.layout = Layout.l3310 := by decide

/-- One operation of each kind, with a variable that waits and one that does not. -/
theorem witness_CodecFrame :
    (∃ t, exec (.enc 7 2 255) (waiting (.enc 7 2 255)) = .next t) ∧ (∃ t, exec (.decw 0x72FF#16) (waiting (.decw 0x72FF#16)) = .next t)
      ∧ (∃ t, exec (.decb 0x72#8 0xFF#8) (waiting (.decb 0x72#8 0xFF#8)) = .next t)
      ∧ (waiting (.enc 7 2 255)).pending.bind Pending.dst = some 1
      ∧ (waiting (.enc 7 2 255)).pending.bind Pending.dst ≠ some 2 :=
  ⟨⟨_, exec_of_wf _ reset_wf⟩, ⟨_, exec_of_wf _ reset_wf⟩, ⟨_, exec_of_wf _ reset_wf⟩, rfl, by decide⟩

theorem witness_ParseByteFields : State.reset.cfg.layout.wf = true := reset_wf

theorem witness_ParseMultiByteFields : State.reset.cfg.layout.wf = true := reset_wf

theorem witness_ParseBitFields : State.reset.cfg.layout.wf = true := reset_wf

theorem witness_ParseTotalOnEighteenBytes : frameL13.length = 18 ∧ State.reset.cfg.layout.wf = true := by decide

/-- The lengths next to 18, and 0. -/
theorem witness_ParseLengthGuard :
    State.reset.cfg.layout.wf = true ∧ (List.replicate 17 0#8).length ≠ 18 ∧ (List.replicate 19 0#8).length ≠ 18
      ∧ ([] : List Byte).length ≠ 18 ∧ (List.replicate 17 1#8).length = (List.replicate 17 0#8).length := by decide

theorem witness_ReservedBitsAreIgnored :
    State.reset.cfg.layout.wf = true ∧ 0b00000000#8 &&& 0b00001101#8 = 0b11110010#8 &&& 0b00001101#8 := by decide

theorem witness_ReportFieldsShowTheFrameBytes :
    ∃ t r, exec (.parse [0xAA#8, 0x01#8, 0x02#8, 0x10#8, 0x20#8, 0x30#8, 0x00#8, 0x05#8, 0x01#8, 0x03#8, 0x00#8, 0x01#8,
      0x00#8, 0x12#8, 0x34#8, 0x55#8, 0x05#8, 0x55#8]) State.reset = .next t ∧ t.response = some (.parsed r) :=
  ⟨_, _, exec_of_wf _ reset_wf, rfl⟩

theorem witness_ParseFrame :
    (∃ t, exec (.parse frameL13) (waiting (.parse frameL13)) = .next t) ∧ frameL13.length = 18
      ∧ (∃ t, exec (.parse []) (waiting (.parse [])) = .next t) ∧ ([] : List Byte).length ≠ 18
      ∧ (waiting (.parse [])).pending.bind Pending.dst = some 1 ∧ (waiting (.parse [])).pending.bind Pending.dst ≠ some 2 :=
  ⟨⟨_, exec_of_wf _ reset_wf⟩, rfl, ⟨_, exec_of_wf _ reset_wf⟩, by decide, rfl, by decide⟩

theorem witness_HolderFollowsParseResponses :
    (∃ t, exec (.parse frameL13) State.reset = .next t) ∧ (∃ t, exec (.parse []) State.reset = .next t)
      ∧ (∃ t, exec (.decw 0) State.reset = .next t) :=
  ⟨⟨_, exec_of_wf _ reset_wf⟩, ⟨_, exec_of_wf _ reset_wf⟩, ⟨_, exec_of_wf _ reset_wf⟩⟩

theorem witness_LengthErrorIsTheOnlyError :
    (∃ t, exec (.parse []) State.reset = .next t ∧ t.response = some (.lengthError 0))
      ∧ (∃ t r, exec (.decw 0) State.reset = .next t ∧ t.response = some r) :=
  ⟨⟨_, exec_of_wf _ reset_wf, rfl⟩, ⟨_, _, exec_of_wf _ reset_wf, rfl⟩⟩

/-- The lengths next to 18, with a variable that waits and one that does not. -/
theorem witness_LengthErrorChangesNothing :
    let s := waiting (.parse (List.replicate 19 0#8))
    s.cfg.layout.wf = true ∧ (List.replicate 19 0#8).length ≠ 18 ∧ (List.replicate 17 0#8).length ≠ 18
      ∧ s.pending.bind Pending.dst = some 1 ∧ s.pending.bind Pending.dst ≠ some 2 := by decide

theorem witness_ResponseDependsOnRequestAndConfigurationOnly :
    (waiting (.parse frameL13)).cfg = State.reset.cfg ∧ waiting (.parse frameL13) ≠ State.reset
      ∧ ∃ t, exec (.decw 0x72FF#16) State.reset = .next t :=
  ⟨rfl, by decide, _, exec_of_wf _ reset_wf⟩

theorem witness_AnyOrderGivesTheSameResponses : State.reset.cfg.layout.wf = true := reset_wf

theorem witness_RequestsAreIdempotent : ∃ t, exec (.parse frameL13) State.reset = .next t := ⟨_, exec_of_wf _ reset_wf⟩

theorem witness_EveryRequestIsAnsweredInOneStep :
    (waiting (.decw 0)).cfg.layout.wf = true ∧ ∃ p, (waiting (.decw 0)).pending = some p ∧ p.dst = some 1 :=
  ⟨reset_wf, _, rfl, rfl⟩

/-- A layout of each kind: a preset, the narrowest fields, a sum of 15, a zero width. -/
theorem witness_ServedExactlyUnderWellFormedLayouts :
    (let L := Layout.l448; L.idBits + L.commandBits + L.payloadBits = 16 ∧ 1 ≤ L.idBits ∧ 1 ≤ L.commandBits ∧ 1 ≤ L.payloadBits)
      ∧ (let L : Layout := ⟨1, 14, 1⟩; L.idBits + L.commandBits + L.payloadBits = 16 ∧ 1 ≤ L.idBits ∧ 1 ≤ L.commandBits ∧ 1 ≤ L.payloadBits)
      ∧ (let L : Layout := ⟨4, 4, 7⟩; ¬(L.idBits + L.commandBits + L.payloadBits = 16 ∧ 1 ≤ L.idBits ∧ 1 ≤ L.commandBits ∧ 1 ≤ L.payloadBits))
      ∧ (let L : Layout := ⟨8, 0, 8⟩; ¬(L.idBits + L.commandBits + L.payloadBits = 16 ∧ 1 ≤ L.idBits ∧ 1 ≤ L.commandBits ∧ 1 ≤ L.payloadBits)) := by
  decide

theorem witness_StepsNeverChangeTheConfiguration : ∃ t, step (waiting (.decw 0)) = .next t := ⟨_, rfl⟩

theorem witness_HostLinesLeaveTheBlockSideAlone :
    (host (.read 1 18)).pending = none ∧ ∃ t, step (host (.read 1 18)) = .next t := ⟨rfl, _, rfl⟩

theorem witness_HolderChangesOnlyByParsing :
    ∃ t, step (waiting (.parse frameL13)) = .next t ∧ t.holder ≠ (waiting (.parse frameL13)).holder :=
  ⟨_, rfl, by decide⟩

theorem reset_inv : State.reset.Inv := by
  constructor <;> simp [State.reset, State.resetWith, Integration.recommended, Layout.l448, Layout.wf]

theorem witness_EveryStepKeepsTheInvariant : State.reset.Inv ∧ ∃ t, step State.reset = .next t := ⟨reset_inv, _, rfl⟩

theorem witness_InvariantHoldsAtReset : Integration.recommended.layout.wf = true := by decide

theorem witness_ResetLeavesTheConfigurationAndEmptiesTheHolder : ∃ t, exec (.decw 0) State.reset = .next t :=
  ⟨_, exec_of_wf _ reset_wf⟩

theorem witness_NoFaultOnceTheTransportExists : State.reset.serial ≠ none := by decide

/-- An ill-formed layout, a table without the source's entry, a boot that goes through, and a declared machine without a
transport. -/
theorem witness_BootDeclaresThenServes :
    Layout.wf { Layout.l448 with idBits := 5 } = false
      ∧ (Layout.l3310.wf = true ∧ CmdTable.wf Layout.l3310 [] = false)
      ∧ (0b101, CmdName.test) ∉ [(0b101, CmdName.named 1)]
      ∧ (∃ s, boot Integration.recommended (reportReadLines 1 1 1 2) = .next s)
      ∧ (∃ s, declareIntegration Integration.recommended = .next s) :=
  ⟨by decide, by decide, by decide, ⟨_, rfl⟩, ⟨_, rfl⟩⟩

theorem witness_RequestLineBringsItsResponse :
    let q := ReqStmt.decb (.lit 0x72) (.lit 0xFF)
    (host (.request 1 q)).cfg.layout.wf = true ∧ (host (.request 1 q)).pending = none
      ∧ (host (.request 1 q)).script[(host (.request 1 q)).pos]? = some (.request 1 q)
      ∧ formInstr (host (.request 1 q)) q = .ok (some (.decb 0x72#8 0xFF#8)) :=
  ⟨reset_wf, rfl, rfl, rfl⟩

/-- The largest operands that fit, the least that do not, and a name with a code. -/
theorem witness_LiteralRequestLines :
    0xFFFF < 2 ^ 16 ∧ 0xFF < 2 ^ 8 ∧ 2 ^ 16 ≤ 0x10000 ∧ 2 ^ 8 ≤ 0x100 ∧ (∃ n ∈ [0xFF, 0x100], 2 ^ 8 ≤ n)
      ∧ commandCode (at0 .l3310).cfg .test = .ok 5 := by decide

/-- TEST has exactly one code under L3310, another name has none, and r1 holds an ENCODE response. -/
theorem witness_PseudoOperationsExpand :
    CmdTable.wf (at0 .l3310).cfg.layout (at0 .l3310).cfg.cmdTable = true ∧ (5, CmdName.test) ∈ (at0 .l3310).cfg.cmdTable
      ∧ (∀ e ∈ (at0 .l3310).cfg.cmdTable, e.2 = CmdName.test → e.1 = 5)
      ∧ (∀ e ∈ (at0 .l3310).cfg.cmdTable, e.2 ≠ CmdName.named 0) ∧ 0xFD55 < 2 ^ 16
      ∧ Vars.get (vars (.encoded 0x72FF#16 0x72#8 0xFF#8) ⟨0, .timeoutError⟩ .halt).rvars 1
        = some (.encoded 0x72FF#16 0x72#8 0xFF#8) := by
  decide

theorem witness_ReadIsWholeOrTimesOut :
    (host (.read 1 18)).pending = none ∧ (host (.read 1 18)).serial ≠ none
      ∧ (host (.read 1 18)).script[(host (.read 1 18)).pos]? = some (.read 1 18) :=
  ⟨rfl, by decide, rfl⟩

theorem witness_EveryReadOutcomeIsPossible :
    (host (.read 1 18)).pending = none ∧ (host (.read 1 18)).serial ≠ none
      ∧ (host (.read 1 18)).script[(host (.read 1 18)).pos]? = some (.read 1 18) ∧ frameL13.length = 18 :=
  ⟨rfl, by decide, rfl, rfl⟩

/-- The three draws: the bytes after the last retry, one retry too late, and none listed, where the outcome is free. -/
theorem witness_ReportReadParsesOrLeavesTheHolder :
    let s (ds : List Draw) : State := { State.reset with script := reportReadLines 1 1 1 2, draws := ds }
    (∀ ds, (s ds).cfg.layout.wf = true ∧ (s ds).pending = none ∧ (s ds).serial ≠ none
      ∧ (s ds).script = reportReadLines 1 1 1 2 ∧ (s ds).pos = 0)
      ∧ (∃ u, step (s [⟨0, frameL13⟩]) = .next u ∧ readOutcome 18 u = .bytes frameL13)
      ∧ (∃ u, step (s [⟨101, []⟩]) = .next u ∧ readOutcome 18 u = .timeoutError)
      ∧ (∃ u, step (s []) = .next u ∧ ∀ x, readOutcome 18 u = x → x = .timeoutError ∨ ∃ bs, x = .bytes bs)
      ∧ frameL13.length = 18 ∧ 100 ≤ (s []).cfg.maxRetries ∧ (s []).cfg.maxRetries < 101 := by
  refine ⟨fun ds => ⟨rfl, rfl, by simp [State.reset, State.resetWith], rfl, rfl⟩, ⟨_, rfl, rfl⟩, ⟨_, rfl, rfl⟩,
    ⟨_, rfl, fun x _ => ?_⟩, rfl, by decide, by decide⟩
  cases x with
  | bytes bs => exact .inr ⟨bs, rfl⟩
  | timeoutError => exact .inl rfl

/-- One state for the operands of an ENCODE response and of a read, one for those of a report. -/
theorem witness_SendPutsBytesOnTheLine :
    let r := Response.encoded 0x72FF#16 0x72#8 0xFF#8
    let p := Response.parsed (reportOf frameL13)
    let t : ReadRecord := ⟨2, .bytes [1#8, 2#8]⟩
    (∀ q x, (vars q t x).pending = none ∧ (vars q t x).serial ≠ none ∧ (vars q t x).script[(vars q t x).pos]? = some x
      ∧ Vars.get (vars q t x).rvars 1 = some q ∧ Vars.get (vars q t x).tvars 1 = some t)
      ∧ (∃ w b0 b1, r = .encoded w b0 b1) ∧ (∃ rep, p = .parsed rep ∧ rep.firmwareVersion = 0x03#8)
      ∧ Operand.lit 0x72 = .lit (0x72#8).toNat := by
  refine ⟨fun q x => ⟨rfl, ?_, rfl, rfl, rfl⟩, ⟨_, _, _, rfl⟩, ⟨_, rfl, rfl⟩, rfl⟩
  simp [vars, host, State.reset, State.resetWith]

/-- One state for each branch, with label 1 at line 1, for both statuses and both read results; operands of each kind; and
halt in a script with no label. -/
theorem witness_BranchesFollowTheScript :
    let s (r : Response) (t : ReadResult) (x : Line) : State :=
      { vars r ⟨1, t⟩ x with script := [x, .label 1] }
    let p := Response.parsed (reportOf frameL13)
    let d := Response.decoded ⟨7, 2, 255, .unknown 2⟩
    (∀ r t x, x ≠ .label 1 → (s r t x).pending = none ∧ findLabel (s r t x) 1 = some 1
      ∧ (s r t x).script[(s r t x).pos]? = some x ∧ Vars.get (s r t x).rvars 1 = some r
      ∧ Vars.get (s r t x).tvars 1 = some ⟨1, t⟩)
      ∧ (Line.jmp 1 ≠ .label 1 ∧ Line.bokResponse 1 1 ≠ .label 1 ∧ Line.bokRead 1 1 ≠ .label 1
        ∧ ∀ a b, Line.beq a b 1 ≠ .label 1)
      ∧ ((host .halt).pending = none ∧ (host .halt).script[(host .halt).pos]? = some .halt ∧ findLabel (host .halt) 1 = none)
      ∧ (∀ x, evalOperand (s d (.bytes [1#8]) x) (.result 1 .payloadOut) = .ok (.num 255)
        ∧ evalOperand (s d (.bytes [1#8]) x) (.result 1 .commandClass) = .ok (.cls (.unknown 2))
        ∧ evalOperand (s d (.bytes [1#8]) x) (.read 1) = .ok (.bytes [1#8])
        ∧ evalOperand (s p (.bytes [1#8]) x) (.result 1 .report) = .ok (.report (reportOf frameL13))
        ∧ evalOperand (s (.encoded 0x72FF 0x72 0xFF) .timeoutError x) (.read 1) = .ok .timeoutError
        ∧ evalOperand (s (.encoded 0x72FF 0x72 0xFF) .timeoutError x) (.result 1 .bytesOut)
          = .ok (.bytes [0x72#8, 0xFF#8])) := by
  refine ⟨fun r t x hx => ⟨rfl, ?_, rfl, rfl, rfl⟩, ⟨by decide, by decide, by decide, by simp⟩, ⟨rfl, rfl, rfl⟩,
    fun x => ⟨rfl, rfl, rfl, rfl, rfl, rfl⟩⟩
  simp [findLabel, List.findIdx?_cons, hx]

/-- The values where the clauses meet: 0, 1, 9, 10, 12, 13 for channels, 0, 1, 4, 5 for power levels. -/
theorem witness_SequencerArgumentBytes :
    (1 ≤ 1 ∧ 1 ≤ 9) ∧ (1 ≤ 9 ∧ 9 ≤ 9) ∧ (10 ≤ 10 ∧ 10 ≤ 12) ∧ (10 ≤ 12 ∧ 12 ≤ 12) ∧ (0 = 0 ∨ 12 < 0) ∧ (13 = 0 ∨ 12 < 13)
      ∧ (1 ≤ 1 ∧ 1 ≤ 4) ∧ (1 ≤ 4 ∧ 4 ≤ 4) ∧ (0 = 0 ∨ 4 < 0) ∧ (5 = 0 ∨ 4 < 5) := by decide

theorem witness_OutOfRangeSequencerArgumentsDoNothing :
    (host (.sequencer .channelSelect 13)).pending = none ∧ (host (.sequencer .channelSelect 0)).pending = none
      ∧ (host (.sequencer .channelSelect 13)).script[(host (.sequencer .channelSelect 13)).pos]? = some (.sequencer .channelSelect 13)
      ∧ (host (.sequencer .powerLevel 5)).script[(host (.sequencer .powerLevel 5)).pos]? = some (.sequencer .powerLevel 5)
      ∧ (13 = 0 ∨ 12 < 13) ∧ (5 = 0 ∨ 4 < 5) :=
  ⟨rfl, rfl, rfl, rfl, by decide, by decide⟩

theorem witness_AcceptedSequencerOperationsRunTheirScript :
    (host (.sequencer .channelSelect 12)).pending = none ∧ (host (.sequencer .channelSelect 12)).serial ≠ none
      ∧ (host (.sequencer .channelSelect 12)).script[(host (.sequencer .channelSelect 12)).pos]? = some (.sequencer .channelSelect 12)
      ∧ (1 ≤ 12 ∧ 12 ≤ 12) :=
  ⟨rfl, by decide, rfl, by decide⟩

/-- One state for each clause: a DECODE response without `word_out` under each line that reads it, byte operands at a port, a
name without a code, and branches to a label the script has not. -/
theorem witness_HostLinesWithNoMeaningAreRefused :
    let d := Response.decoded ⟨7, 2, 255, .unknown 2⟩
    let e := Response.encoded 0x72FF#16 0x72#8 0xFF#8
    let s (r : Response) (x : Line) : State := vars r ⟨1, .bytes [1#8]⟩ x
    let bad := Operand.result 1 .wordOut
    (∀ r x, (s r x).pending = none ∧ (s r x).script[(s r x).pos]? = some x ∧ Vars.get (s r x).rvars 1 = some r
      ∧ Vars.get (s r x).tvars 1 = some ⟨1, .bytes [1#8]⟩)
      ∧ resultField d .wordOut = none
      ∧ (∀ x, evalOperand (s d x) (.result 1 .payloadOut) = .ok (.num 255)
        ∧ ReadsAtPort (s d x) bad (.decw bad) ∧ ReadsAtPort (s d x) bad (.enc (.lit 1) (.result 1 .payloadOut) bad)
        ∧ ReadsAtPort (s d x) bad (.parse [.lit 1, bad]) ∧ ReadsAtPort (s d x) (.result 1 (.bytesOutAt 0)) (.decbBytesOut 1)
        ∧ evalOperand (s d x) (.result 1 .commandClass) = .ok (.cls (.unknown 2))
        ∧ ReadsAtPort (s d x) (.result 1 .commandClass) (.decb (.lit 1) (.result 1 .commandClass)))
      ∧ (∀ x, evalOperand (s e x) (.result 1 .bytesOut) = .ok (.bytes [0x72#8, 0xFF#8])
        ∧ ReadsAtPort (s e x) (.result 1 .bytesOut) (.decw (.result 1 .bytesOut))
        ∧ ReadsAtPort (s e x) (.read 1) (.decw (.read 1)))
      ∧ (∀ e' ∈ (s e .halt).cfg.cmdTable, e'.2 ≠ CmdName.test)
      ∧ (findLabel (s e (.jmp 1)) 1 = none ∧ findLabel (s e (.bokResponse 1 1)) 1 = none ∧ e.status = .ok
        ∧ findLabel (s e (.bokRead 1 1)) 1 = none ∧ findLabel (s e (.beq (.lit 0) (.lit 0) 1)) 1 = none
        ∧ (Value.num 0).equal (.num 0) = some true) := by
  refine ⟨fun r x => ⟨rfl, rfl, rfl, rfl⟩, rfl, fun x => ⟨rfl, rfl, .inr (.inr ⟨(by decide : 1 < 2 ^ 16), ?_, rfl⟩), ?_, rfl, rfl,
    .inr ⟨(by decide : 1 < 2 ^ 8), rfl⟩⟩, fun x => ⟨rfl, rfl, rfl⟩, by decide, by decide⟩
  · intro resp h
    cases h
    exact ⟨_, _, rfl, rfl⟩
  · refine ⟨[.lit 1], [], rfl, fun y hy => ?_⟩
    cases List.mem_singleton.1 hy
    exact (by decide : 1 < 2 ^ 8)

/-- One state for each outcome of the read, and one where none is bound. -/
theorem witness_ParseOfAReadFollowsItsOutcome :
    let x := Line.request 2 (.parseRead 1)
    let s (t : ReadResult) : State := vars (.lengthError 0) ⟨1, t⟩ x
    (∀ t, (s t).pending = none ∧ (s t).script[(s t).pos]? = some x ∧ Vars.get (s t).tvars 1 = some ⟨1, t⟩)
      ∧ ((host x).pending = none ∧ (host x).script[(host x).pos]? = some x ∧ Vars.get (host x).tvars 1 = none) :=
  ⟨fun _ => ⟨rfl, rfl, rfl⟩, rfl, rfl, rfl⟩

/-- A read that timed out, a report field of 16 bits and a variable not written, sent and compared; a branch on a variable
not written. -/
theorem witness_SendAndBranchesRunOnEveryOperand :
    let s (x : Line) : State :=
      { vars (.parsed (reportOf frameL13)) ⟨1, .timeoutError⟩ x with script := [x, .label 1] }
    (∀ x, x ≠ .label 1 → (s x).pending = none ∧ (s x).serial ≠ none ∧ findLabel (s x) 1 = some 1
      ∧ (s x).script[(s x).pos]? = some x ∧ HasItsField (s x) (.read 1)
      ∧ HasItsField (s x) (.result 1 (.reportField .chipId)) ∧ HasItsField (s x) (.result 2 .wordOut))
      ∧ (∀ a, Line.send a ≠ .label 1) ∧ (∀ a b, Line.beq a b 1 ≠ .label 1) ∧ Line.bokResponse 2 1 ≠ .label 1
      ∧ Line.bokRead 2 1 ≠ .label 1 := by
  refine ⟨fun x hx => ⟨rfl, ?_, ?_, rfl, ?_, ?_, ?_⟩, by simp, by simp, by decide, by decide⟩
  · simp [vars, host, State.reset, State.resetWith]
  · simp [findLabel, List.findIdx?_cons, hx]
  · intro r f resp h
    cases h
  · intro r f resp h hv
    cases h
    cases hv
    simp [resultField]
  · intro r f resp h hv
    cases h
    cases hv

/-- A number that fits, one of 16 bits for a port of 8, and a variable not written, at each kind of port. -/
theorem witness_NumbersOfResultsGoOntoThePorts :
    let s := vars (.parsed (reportOf frameL13)) ⟨1, .timeoutError⟩ .halt
    (∀ w, PortOperand s w (.result 1 (.reportField .chipId)) ∧ PortOperand s w (.result 2 .wordOut))
      ∧ PortOperand s 16 (.lit 0xFFFF) ∧ PortOperand s 8 (.lit 0xFF)
      ∧ (∀ x ∈ [Operand.lit 0xFF, .lit 0], PortOperand s 8 x)
      ∧ evalOperand s (.result 1 (.reportField .chipId)) = .ok (.num 0x1234) ∧ ¬ 0x1234 < 2 ^ 8
      ∧ commandCode (at0 .l3310).cfg .test = .ok 5 ∧ PortOperand (at0 .l3310) 16 (.lit 5) := by
  refine ⟨fun w => ⟨?_, ?_⟩, (by decide : 0xFFFF < 2 ^ 16), (by decide : 0xFF < 2 ^ 8), fun x hx => ?_, rfl, by decide,
    by decide, (by decide : 5 < 2 ^ 16)⟩
  · intro resp h
    cases h
    exact ⟨_, _, rfl, rfl⟩
  · intro resp h
    cases h
  · rcases List.mem_cons.1 hx with rfl | hx
    · exact (by decide : 0xFF < 2 ^ 8)
    · cases List.mem_singleton.1 hx
      exact (by decide : 0 < 2 ^ 8)

/-- A variable of each kind of response, and both outcomes of a read. -/
theorem witness_OperandsNameTheirValues :
    (∀ r t, Vars.get (vars r ⟨1, t⟩ .halt).rvars 1 = some r ∧ Vars.get (vars r ⟨1, t⟩ .halt).tvars 1 = some ⟨1, t⟩)
      ∧ (ReportField.chipId, (reportOf frameL13).chipId.toNat) ∈ [(ReportField.chipId, 0x1234)] :=
  ⟨fun r t => ⟨rfl, rfl⟩, by decide⟩

end Sys2Proof.Tests
end

section
/-! The report holder and the independence of responses (10_state.md R24, R26; 41_report_parser.md R67). What an operation
answers is `responseTo`, a function of the configuration and the request; both statements follow from which responses it can
give and from `exec_eq_next`. -/

namespace Sys2Proof.Machine

@[simp] theorem parseResponse_of_length_eq {B : List Byte} (h : B.length = 18) : parseResponse B = .parsed (reportOf B) :=
  if_pos h

@[simp] theorem parseResponse_of_length_ne {B : List Byte} (h : B.length ≠ 18) : parseResponse B = .lengthError B.length :=
  if_neg h

/-- Only PARSE answers a report. -/
theorem responseTo_ne_parsed (c : Integration) {i : Instr} (hi : ∀ B, i ≠ .parse B) (r : Report) :
    responseTo c i ≠ .parsed r := by
  cases i with
  | enc a b p => simp [responseTo, encodeResponse]
  | decw w => simp [responseTo]
  | decb b0 b1 => simp [responseTo]
  | parse B => exact absurd rfl (hi B)

/-- Settles O27, by cases on the operation: a PARSE of 18 bytes, a PARSE of another length, any other operation. -/
theorem holderFollowsParseResponses : Obligations.HolderFollowsParseResponses := by
  intro s t i h
  obtain ⟨-, rfl⟩ := exec_eq_next h
  by_cases hi : ∃ B, i = .parse B
  · obtain ⟨B, rfl⟩ := hi
    by_cases hB : B.length = 18
    · exact .inl ⟨B, reportOf B, rfl, hB, by simp [responseTo, hB], by simp [responseTo, hB, holderAfter]⟩
    · exact .inr (.inl ⟨B, rfl, hB, by simp [responseTo, hB], by simp [responseTo, hB, holderAfter]⟩)
  · have hne : ∀ r, responseTo s.cfg i ≠ .parsed r := responseTo_ne_parsed s.cfg fun B hB => hi ⟨B, hB⟩
    exact .inr (.inr ⟨fun B hB => hi ⟨B, hB⟩, by simpa using hne, holderAfter_of_not_parsed _ hne⟩)

/-- Settles O30: both states serve the one response `responseTo` gives under their common configuration. -/
theorem responseDependsOnRequestAndConfigurationOnly : Obligations.ResponseDependsOnRequestAndConfigurationOnly := by
  intro s s' t i hcfg h
  obtain ⟨hwf, rfl⟩ := exec_eq_next h
  have hwf' : s'.cfg.layout.wf = true := hcfg ▸ hwf
  exact ⟨_, exec_of_wf i hwf', by simp [hcfg]⟩

end Sys2Proof.Machine
end

section
/-! Idempotence of requests (20_memory.md R33). Serving leaves the configuration alone, so the second serving gives the same
`responseTo`; what remains is that the holder takes that response the second time as it did the first. -/

namespace Sys2Proof.Machine

/-- A report replaces the holder by itself and every other response keeps it (10_state.md R24), so
taking one twice is taking it once. -/
theorem holderAfter_idempotent (r : Response) (h : Option Report) : holderAfter r (holderAfter r h) = holderAfter r h := by
  cases r <;> rfl

/-- Settles O32: the second serving finds the same configuration, hence the same response, which the holder has taken
already. -/
theorem requestsAreIdempotent : Obligations.RequestsAreIdempotent := by
  intro s t i h
  obtain ⟨hwf, rfl⟩ := exec_eq_next h
  exact ⟨_, exec_of_wf i hwf, rfl, holderAfter_idempotent _ _⟩

end Sys2Proof.Machine
end

section
/-! The encoding family (30_encoding.md R37, R38, R40). The decoder has one equation per `op` value and each reads that
operation's ports only; the word's fields are read bit by bit in ENCODE's word and as bit ranges in DECODE_WORD's results. -/

namespace Sys2Proof.Machine

/-- R39: two bits of `op` have four values and no more. -/
theorem op_cases (op : BitVec 2) : op = 0b00#2 ∨ op = 0b01#2 ∨ op = 0b10#2 ∨ op = 0b11#2 := by
  revert op
  decide

theorem decode_of_op_enc {r : Request} (h : r.op = 0b00#2) : decode r = .enc r.idIn r.commandIn r.payloadIn := by
  simp [decode, h]

theorem decode_of_op_decw {r : Request} (h : r.op = 0b01#2) : decode r = .decw r.wordIn := by
  simp [decode, h]

theorem decode_of_op_decb {r : Request} (h : r.op = 0b10#2) : decode r = .decb r.byte0In r.byte1In := by
  simp [decode, h]

theorem decode_of_op_parse {r : Request} (h : r.op = 0b11#2) : decode r = .parse r.frameIn := by
  simp [decode, h]

/-- Settles O2, by cases on `op`: each decoder equation mentions no port but the operation's own. -/
theorem otherPortsAreIgnored : Obligations.OtherPortsAreIgnored := by
  intro r r' hop henc hdecw hdecb hparse
  rcases op_cases r.op with h | h | h | h
  · obtain ⟨hid, hcommand, hpayload⟩ := henc h
    rw [decode_of_op_enc h, decode_of_op_enc (hop ▸ h), hid, hcommand, hpayload]
  · rw [decode_of_op_decw h, decode_of_op_decw (hop ▸ h), hdecw h]
  · obtain ⟨hbyte0, hbyte1⟩ := hdecb h
    rw [decode_of_op_decb h, decode_of_op_decb (hop ▸ h), hbyte0, hbyte1]
  · rw [decode_of_op_parse h, decode_of_op_parse (hop ▸ h), hparse h]

/-- Settles O7: the word that ENCODE serves is `encodeWord`, whose bits `getLsbD_encodeWord` gives. -/
theorem wordFieldsCoverTheWord : Obligations.WordFieldsCoverTheWord := by
  intro s idIn commandIn payloadIn hwf
  exact ⟨_, _, _, _, exec_of_wf _ hwf, rfl, fun k hk => getLsbD_encodeWord hwf idIn commandIn payloadIn hk⟩

/-- R49: shifting down by `lo` and masking to the width of the bits `hi` to `lo` cuts them out, zero-extended. -/
theorem cutField_eq_extractLsb (w : Word16) {bits hi lo : Nat} (h : bits = hi - lo + 1) :
    cutField w bits lo = (w.extractLsb hi lo).setWidth 16 := by
  subst h
  apply BitVec.eq_of_getLsbD_eq
  intro k _
  simp [getLsbD_cutField, BitVec.extractLsb, Bool.and_assoc]

/-- R37, R55: the bit ranges that DECODE_WORD's three results are, under any well-formed layout. -/
theorem exec_decw_bit_ranges {s : State} {L : Layout} (hL : s.cfg.layout = L) (hwf : L.wf = true) (w : Word16) :
    ∃ (t : State) (d : Decoded), exec (.decw w) s = .next t ∧ t.response = some (.decoded d) ∧
      d.idOut = (w.extractLsb 15 (L.commandBits + L.payloadBits)).setWidth 16 ∧
      d.commandOut = (w.extractLsb (L.commandBits + L.payloadBits - 1) L.payloadBits).setWidth 16 ∧
      d.payloadOut = (w.extractLsb (L.payloadBits - 1) 0).setWidth 16 := by
  subst hL
  obtain ⟨hsum, hid, hcommand, hpayload⟩ := (layout_wf_iff _).1 hwf
  exact ⟨_, _, exec_of_wf _ hwf, rfl, cutField_eq_extractLsb w (by unfold idShift; omega),
    cutField_eq_extractLsb w (by unfold commandShift; omega), cutField_eq_extractLsb w (by unfold payloadShift; omega)⟩

/-- Settles O15: the bit ranges of any layout, at the widths of the two presets. -/
theorem presetFieldPositions : Obligations.PresetFieldPositions := by
  intro s w
  exact ⟨fun hL => exec_decw_bit_ranges hL (by decide) w, fun hL => exec_decw_bit_ranges hL (by decide) w⟩

end Sys2Proof.Machine
end

section
/-! The codec family (40_codec.md R53 to R62). ENCODE and DECODE_WORD are read as numbers through `encodeWord_toNat` and
`cutField_toNat`, DECODE_BYTES is DECODE_WORD of the big-endian word, and the round trip compares the bits of each cut field
with `getLsbD_encodeWord`. -/

namespace Sys2Proof.Machine

@[simp] theorem highByte_toNat (w : Word16) : (highByte w).toNat = w.toNat / 256 := by
  simp only [highByte, BitVec.extractLsb_toNat, Nat.shiftRight_eq_div_pow]
  omega

@[simp] theorem lowByte_toNat (w : Word16) : (lowByte w).toNat = w.toNat % 256 := by
  simp [lowByte]

/-- R27: a word with the big-endian value of two bytes is the word they form. -/
theorem eq_be2_of_toNat_eq {w : Word16} {b0 b1 : Byte} (h : w.toNat = b0.toNat * 256 + b1.toNat) : w = be2 b0 b1 :=
  BitVec.eq_of_toNat_eq (h.trans (be2_toNat b0 b1).symm)

/-- R28: a word's high and low byte form the word again. -/
theorem be2_highByte_lowByte (w : Word16) : be2 (highByte w) (lowByte w) = w :=
  (eq_be2_of_toNat_eq (by simp only [highByte_toNat, lowByte_toNat]; omega)).symm

/-- R57: in every state DECODE_BYTES is DECODE_WORD of the big-endian word. -/
theorem exec_decb (b0 b1 : Byte) (s : State) : exec (.decb b0 b1) s = exec (.decw (be2 b0 b1)) s := rfl

/-- A cut field is a number below `2 ^ bits` as soon as the word shows that number's bits at the field's place. -/
theorem cutField_eq_of_getLsbD_eq {w v : Word16} {bits shift : Nat} (hv : v.toNat < 2 ^ bits)
    (h : ∀ k < bits, w.getLsbD (shift + k) = v.getLsbD k) : cutField w bits shift = v := by
  apply BitVec.eq_of_getLsbD_eq
  intro k hk
  rw [getLsbD_cutField]
  by_cases hb : k < bits
  · simp [hk, hb, h k hb]
  · have habove : v.getLsbD k = false :=
      Nat.testBit_lt_two_pow (hv.trans_le (Nat.pow_le_pow_right (by omega) (by omega)))
    simp [hb, habove]

section
variable {L : Layout} {k : Nat} (hwf : L.wf = true) (i c p : Word16)
include hwf

/-! R37: the bits of ENCODE's word at the place of each field are that operand's low bits. -/

theorem getLsbD_encodeWord_id (hk : k < L.idBits) : (encodeWord L i c p).getLsbD (idShift L + k) = i.getLsbD k := by
  obtain ⟨hsum, -, -, -⟩ := (layout_wf_iff L).1 hwf
  rw [idShift, getLsbD_encodeWord hwf i c p (by omega), if_neg (by omega), if_neg (by omega), Nat.add_sub_cancel_left]

theorem getLsbD_encodeWord_command (hk : k < L.commandBits) :
    (encodeWord L i c p).getLsbD (commandShift L + k) = c.getLsbD k := by
  obtain ⟨hsum, -, -, -⟩ := (layout_wf_iff L).1 hwf
  rw [commandShift, getLsbD_encodeWord hwf i c p (by omega), if_neg (by omega), if_pos (by omega),
    Nat.add_sub_cancel_left]

theorem getLsbD_encodeWord_payload (hk : k < L.payloadBits) :
    (encodeWord L i c p).getLsbD (payloadShift L + k) = p.getLsbD k := by
  obtain ⟨hsum, -, -, -⟩ := (layout_wf_iff L).1 hwf
  rw [payloadShift, getLsbD_encodeWord hwf i c p (by omega), if_pos (by omega), Nat.zero_add]

end

/-- R59 on words: the three fields cut from the word of an in-range triple are the triple. -/
theorem decodeWord_encodeWord {L : Layout} (hwf : L.wf = true) (T : CmdTable) {i c p : Word16}
    (hi : i.toNat < 2 ^ L.idBits) (hc : c.toNat < 2 ^ L.commandBits) (hp : p.toNat < 2 ^ L.payloadBits) :
    (decodeWord L T (encodeWord L i c p)).idOut = i ∧ (decodeWord L T (encodeWord L i c p)).commandOut = c ∧
      (decodeWord L T (encodeWord L i c p)).payloadOut = p :=
  ⟨cutField_eq_of_getLsbD_eq hi fun _ => getLsbD_encodeWord_id hwf i c p,
    cutField_eq_of_getLsbD_eq hc fun _ => getLsbD_encodeWord_command hwf i c p,
    cutField_eq_of_getLsbD_eq hp fun _ => getLsbD_encodeWord_payload hwf i c p⟩

/-- Settles O13: both decoders read `encodeWord`'s word, DECODE_BYTES by `be2_highByte_lowByte`, and `decodeWord_encodeWord`
gives its fields. -/
theorem encodeThenDecodeReturnsTheTriple : Obligations.EncodeThenDecodeReturnsTheTriple := by
  intro s s' i c p hwf hcfg hi hc hp
  have hwf' : s'.cfg.layout.wf = true := hcfg ▸ hwf
  refine ⟨_, _, _, _, _, _, exec_of_wf _ hwf, rfl, exec_of_wf _ hwf', ?_, rfl, ?_⟩
  · rw [exec_decb, be2_highByte_lowByte, exec_of_wf _ hwf']
  · rw [hcfg]
    exact decodeWord_encodeWord hwf s.cfg.cmdTable hi hc hp

/-- Settles O6: the value of `encodeWord` and the values of its two bytes. -/
theorem encodePacksMaskedFields : Obligations.EncodePacksMaskedFields := by
  intro s idIn commandIn payloadIn hwf
  exact ⟨_, _, _, _, exec_of_wf _ hwf, rfl, rfl, encodeWord_toNat hwf idIn commandIn payloadIn, highByte_toNat _,
    lowByte_toNat _⟩

/-- Settles O9: the values of the three cut fields, the payload's with shift 0. -/
theorem decodeWordCutsTheFields : Obligations.DecodeWordCutsTheFields := by
  intro s w hwf
  obtain ⟨hsum, -, -, -⟩ := (layout_wf_iff _).1 hwf
  exact ⟨_, _, exec_of_wf _ hwf, rfl, rfl, cutField_toNat w _ (by omega), cutField_toNat w _ (by omega),
    cutField_toNat w 0 (by omega), rfl⟩

/-- Settles O10: the word is `be2` of the bytes, so both requests are the same DECODE_WORD. -/
theorem decodeBytesIsDecodeOfTheBigEndianWord : Obligations.DecodeBytesIsDecodeOfTheBigEndianWord := by
  intro s b0 b1 w hwf hw
  obtain rfl := eq_be2_of_toNat_eq hw
  exact ⟨_, _, exec_of_wf _ hwf, exec_of_wf _ hwf, rfl⟩

/-- Settles O11: the bytes' big-endian value is the word's, so the word is `be2` of them. -/
theorem byteOrderAgreement : Obligations.ByteOrderAgreement := by
  intro s w b0 b1 h0 h1
  have hw : w = be2 b0 b1 := eq_be2_of_toNat_eq (by omega)
  rw [exec_decb, hw]

/-- R61 on words: operands that agree modulo their fields' sizes give one word. -/
theorem encodeWord_congr_mod {L : Layout} (hwf : L.wf = true) {i c p i' c' p' : Word16}
    (hi : i.toNat % 2 ^ L.idBits = i'.toNat % 2 ^ L.idBits)
    (hc : c.toNat % 2 ^ L.commandBits = c'.toNat % 2 ^ L.commandBits)
    (hp : p.toNat % 2 ^ L.payloadBits = p'.toNat % 2 ^ L.payloadBits) :
    encodeWord L i c p = encodeWord L i' c' p' := by
  apply BitVec.eq_of_toNat_eq
  simp only [encodeWord_toNat hwf, Nat.and_two_pow_sub_one_eq_mod, hi, hc, hp]

/-- Settles O12: ENCODE's response is a function of its word, and the two words are equal. -/
theorem encodeDependsOnLowBitsOnly : Obligations.EncodeDependsOnLowBitsOnly := by
  intro s i c p i' c' p' hwf hi hc hp
  have hword : encodeWord s.cfg.layout i c p = encodeWord s.cfg.layout i' c' p' := encodeWord_congr_mod hwf hi hc hp
  exact ⟨_, exec_of_wf _ hwf, by rw [exec_of_wf _ hwf]; simp only [responseTo, encodeResponse, hword]⟩

end Sys2Proof.Machine
end

section
/-! The report parser family (41_report_parser.md R66, R68 to R78, R85). PARSE under a well-formed layout has two equations,
one per outcome of its length guard; the fields of the report then follow from `byteAt` on the frame and from the big-endian
values `be2_toNat` and `be3_toNat`. -/

namespace Sys2Proof.Machine

section
variable {s : State} {B : List Byte} (hwf : s.cfg.layout.wf = true)
include hwf

/-- R64, R68: a frame of 18 bytes gets its report. -/
theorem exec_parse_of_length_eq (hB : B.length = 18) :
    exec (.parse B) s = .next (s.deliver (.parsed (reportOf B))) := by
  rw [exec_of_wf _ hwf, responseTo, parseResponse_of_length_eq hB]

/-- R66: any other frame gets the length error, in which no byte of the frame stands. -/
theorem exec_parse_of_length_ne (hB : B.length ≠ 18) :
    exec (.parse B) s = .next (s.deliver (.lengthError B.length)) := by
  rw [exec_of_wf _ hwf, responseTo, parseResponse_of_length_ne hB]

end

/-- Settles O20: the fields are `be2` and `be3` of their bytes, whose values are big-endian. -/
theorem parseMultiByteFields : Obligations.ParseMultiByteFields := by
  intro s b0 b1 b2 b3 b4 b5 b6 b7 b8 b9 b10 b11 b12 b13 b14 b15 b16 b17 hwf
  exact ⟨_, _, exec_parse_of_length_eq hwf rfl, rfl, rfl, be2_toNat b1 b2, be2_toNat b6 b7, be3_toNat b10 b11 b12,
    be2_toNat b13 b14⟩

/-- Settles O19: each field is `byteAt` of the frame at the field's place, which on 18 listed bytes computes to the byte. -/
theorem parseByteFields : Obligations.ParseByteFields := by
  intro s b0 b1 b2 b3 b4 b5 b6 b7 b8 b9 b10 b11 b12 b13 b14 b15 b16 b17 hwf
  exact ⟨_, _, exec_parse_of_length_eq hwf rfl, rfl, rfl, rfl, rfl, rfl, rfl, rfl, rfl, rfl⟩

/-- Settles O22: the frame passes the length guard, and the report delivered is a function of the frame alone. -/
theorem parseTotalOnEighteenBytes : Obligations.ParseTotalOnEighteenBytes := by
  intro B hB s hwf
  exact ⟨_, exec_parse_of_length_eq hwf hB, rfl, rfl⟩

/-- Settles O23: the length error carries the length only, so a second frame of that length is answered by the same one. -/
theorem parseLengthGuard : Obligations.ParseLengthGuard := by
  intro s B hwf hB
  refine ⟨_, exec_parse_of_length_ne hwf hB, rfl, rfl, rfl, fun B' hlen => ?_⟩
  rw [exec_parse_of_length_ne hwf (hlen.trans_ne hB), hlen]

end Sys2Proof.Machine
end

section
/-! The exceptions family (60_exceptions.md R99). What an operation answers is `responseTo`, so the block's errors are the
responses of that function whose status is LENGTH_ERROR. -/

namespace Sys2Proof.Machine

/-- R99: codec operations answer with status OK whatever their operands, and PARSE's status is that of its length guard. -/
theorem responseTo_status_eq_lengthError_iff (c : Integration) (i : Instr) :
    (responseTo c i).status = .lengthError ↔
      ∃ B, i = .parse B ∧ B.length ≠ 18 ∧ responseTo c i = .lengthError B.length := by
  cases i with
  | enc a b p => simp [responseTo, encodeResponse, Response.status]
  | decw w => simp [responseTo, Response.status]
  | decb b0 b1 => simp [responseTo, Response.status]
  | parse B =>
    by_cases hB : B.length = 18
    · simp [responseTo, hB, Response.status]
    · simp [responseTo, hB, Response.status]

theorem exec_ne_fault (i : Instr) (s : State) (f : Fault) : exec i s ≠ .fault f := by
  rw [exec_eq_serve]
  exact serve_ne_fault s _ f

/-- Settles O28: serving a response is no fault, and the response delivered is `responseTo`, whose status
`responseTo_status_eq_lengthError_iff` decides. -/
theorem lengthErrorIsTheOnlyError : Obligations.LengthErrorIsTheOnlyError := by
  intro s i
  refine ⟨exec_ne_fault i s, fun t r h hr => ?_⟩
  obtain ⟨-, rfl⟩ := exec_eq_next h
  obtain rfl : responseTo s.cfg i = r := Option.some.inj hr
  exact responseTo_status_eq_lengthError_iff s.cfg i

end Sys2Proof.Machine
end

section
/-! Decoding of requests and turn-taking (30_encoding.md R39, R40, R46; 00_scope.md R4). A request decodes to an operation
exactly when `op` selects it and its own ports carry its operands, so what the host encodes is what the block runs. -/

namespace Sys2Proof.Machine

@[simp] theorem encode_op (i : Instr) : (encode i).op = opcode i := by
  cases i <;> rfl

/-- R39: the decoded operation is the one that `op` selects. -/
theorem opcode_decode (r : Request) : opcode (decode r) = r.op := by
  rcases op_cases r.op with h | h | h | h
  · rw [decode_of_op_enc h, h, opcode]
  · rw [decode_of_op_decw h, h, opcode]
  · rw [decode_of_op_decb h, h, opcode]
  · rw [decode_of_op_parse h, h, opcode]

@[simp] theorem decode_encode (i : Instr) : decode (encode i) = i := by
  cases i with
  | enc a b c => exact decode_of_op_enc rfl
  | decw w => exact decode_of_op_decw rfl
  | decb b0 b1 => exact decode_of_op_decb rfl
  | parse f => exact decode_of_op_parse rfl

theorem decode_eq_iff_op_eq_and (r : Request) (i : Instr) : decode r = i ↔ r.op = (encode i).op ∧ decode r = i :=
  ⟨fun h => ⟨by rw [encode_op, ← h, opcode_decode], h⟩, And.right⟩

/-- Settles O3: the request selects the operation it decodes to, and under that `op` the decoder's equation compares the
operands. -/
theorem decodeOfEncodeIsTheOperation : Obligations.DecodeOfEncodeIsTheOperation := by
  refine ⟨decode_encode, fun r i => (decode_eq_iff_op_eq_and r i).trans (and_congr_right fun hop => ?_)⟩
  cases i with
  | enc a b c => simp [decode_of_op_enc hop]
  | decw w => simp [decode_of_op_decw hop]
  | decb b0 b1 => simp [decode_of_op_decb hop]
  | parse f => simp [decode_of_op_parse hop]

/-- Settles O1: the decoder's equation for each of the four values of `op`. -/
theorem opSelectChoosesTheOperation : Obligations.OpSelectChoosesTheOperation := by
  intro r
  exact ⟨decode_of_op_enc, decode_of_op_decw, decode_of_op_decb, decode_of_op_parse, op_cases r.op⟩

/-- Settles O4, by evaluating the five words. -/
theorem tableWordsDecodeToTheirRows : Obligations.TableWordsDecodeToTheirRows := by
  unfold Obligations.TableWordsDecodeToTheirRows
  decide

/-- Settles O5: the three cases of a step, and `decode_encode` for an encoded operation. -/
theorem stepRunsTheDecodedOperation : Obligations.StepRunsTheDecodedOperation := by
  refine ⟨fun s p i hp hi => ?_, fun s i dst => ?_, fun s x => step_of_line, fun s hp hx => ?_⟩
  · rw [step_of_pending hp, hi]
  · rw [step_of_pending (State.issue_pending ..), decode_encode]
  · rw [step_of_idle_ports hp, hostStep, hx]

end Sys2Proof.Machine
end

section
/-! What every step keeps (10_state.md sections 1 and 3; 70_reset_and_hazards.md R113). A step that goes on either delivers a
response or is the host's; the host's steps leave the block's side alone and bind whole reads only. -/

namespace Sys2Proof.Machine

theorem cutField_lt (w : Word16) {bits : Nat} (shift : Nat) (h : bits ≤ 16) : (cutField w bits shift).toNat < 2 ^ bits := by
  rw [cutField_toNat w shift h, Nat.and_two_pow_sub_one_eq_mod]
  exact Nat.mod_lt _ (Nat.two_pow_pos bits)

/-- R14, R49: the fields DECODE_WORD answers have their fields' widths, and the class is that of the command. -/
theorem decodeWord_fits {c : Integration} (hwf : c.layout.wf = true) (w : Word16) :
    (Response.decoded (decodeWord c.layout c.cmdTable w)).Fits c := by
  obtain ⟨hsum, -, -, -⟩ := (layout_wf_iff _).1 hwf
  exact ⟨cutField_lt w _ (by omega), cutField_lt w _ (by omega), cutField_lt w _ (by omega), rfl⟩

/-- Every response of the block has the form and the widths the spec gives it. -/
theorem responseTo_fits {c : Integration} (hwf : c.layout.wf = true) (i : Instr) : (responseTo c i).Fits c := by
  cases i with
  | enc a b p => exact ⟨rfl, rfl⟩
  | decw w => exact decodeWord_fits hwf w
  | decb b0 b1 => exact decodeWord_fits hwf (be2 b0 b1)
  | parse B =>
    by_cases hB : B.length = 18
    · rw [responseTo, parseResponse_of_length_eq hB]; trivial
    · rw [responseTo, parseResponse_of_length_ne hB]; exact hB

/-- R24: a response never empties the holder. -/
theorem holderAfter_ne_none {h : Option Report} (r : Response) (hh : h ≠ none) : holderAfter r h ≠ none := by
  cases r with
  | parsed rep => simp [holderAfter]
  | encoded => exact hh
  | decoded => exact hh
  | lengthError => exact hh

theorem deliver_keeps_inv {s : State} {r : Response} (hs : s.Inv) (hr : r.Fits s.cfg) : (s.deliver r).Inv where
  layoutWf := hs.layoutWf
  rvarsCanonical := bindResponse_canonical _ _ hs.rvarsCanonical
  tvarsCanonical := hs.tvarsCanonical
  responseFits := by
    intro r' h
    cases h
    exact hr
  rvarsFit := by
    intro e he
    rcases mem_bindResponse he with h | h
    · exact h ▸ hr
    · exact hs.rvarsFit e h
  holderFresh := by
    intro rep h
    cases h
    rfl
  holderFilled := by
    intro e he rep hrep
    rcases mem_bindResponse he with h | h
    · obtain rfl : r = .parsed rep := h.symm.trans hrep
      simp [holderAfter]
    · exact holderAfter_ne_none r (hs.holderFilled e h rep hrep)
  tvarsWhole := hs.tvarsWhole

/-! A read uses up a draw, moves the clock, and leaves every other field as it was. -/

section
variable (s : State)

@[simp] theorem afterRead_cfg : (afterRead s).cfg = s.cfg := by
  simp [afterRead]

@[simp] theorem afterRead_pending : (afterRead s).pending = s.pending := by
  simp [afterRead]

@[simp] theorem afterRead_response : (afterRead s).response = s.response := by
  simp [afterRead]

@[simp] theorem afterRead_holder : (afterRead s).holder = s.holder := by
  simp [afterRead]

@[simp] theorem afterRead_script : (afterRead s).script = s.script := by
  simp [afterRead]

@[simp] theorem afterRead_pos : (afterRead s).pos = s.pos := by
  simp [afterRead]

@[simp] theorem afterRead_rvars : (afterRead s).rvars = s.rvars := by
  simp [afterRead]

@[simp] theorem afterRead_tvars : (afterRead s).tvars = s.tvars := by
  simp [afterRead]

@[simp] theorem afterRead_serial : (afterRead s).serial = s.serial := by
  simp [afterRead]

@[simp] theorem afterRead_sent : (afterRead s).sent = s.sent := by
  simp [afterRead]

@[simp] theorem afterRead_draws : (afterRead s).draws = s.draws.tail := by
  simp [afterRead]

end

/-- All that a line of the host leaves alone (10_state.md sections 1 and 3): the block's side of the ports, the serial
settings, and the read variables, but for one to which it binds the outcome of a read. -/
theorem hostLine_frame {x : Line} {s t : State} (h : hostLine x s = .next t) :
    s.SameBlockSide t ∧ t.serial = s.serial ∧
      (t.tvars = s.tvars ∨ ∃ n k, t.tvars = Vars.set s.tvars n { asked := k, result := readOutcome k s }) := by
  rcases hostLine_eq_next h with ⟨-, rfl⟩ | ⟨p, rfl⟩ | ⟨n, q, i, -, -, rfl⟩ | ⟨n, k, -, -, rfl⟩ | ⟨bs, -, rfl⟩ |
    ⟨op, arg, -, -, rfl⟩
  case inr.inr.inr.inl => exact ⟨by simp [State.SameBlockSide], by simp, .inr ⟨n, k, by simp⟩⟩
  case inr.inr.inr.inr.inr =>
    rw [runActions_eq]
    exact ⟨⟨rfl, rfl, rfl, rfl⟩, rfl, .inl rfl⟩
  all_goals exact ⟨⟨rfl, rfl, rfl, rfl⟩, rfl, .inl rfl⟩

/-- The invariant speaks of the block's side and of the read variables only. -/
theorem inv_of_sameBlockSide {s t : State} (hs : s.Inv) (hst : s.SameBlockSide t) (hcan : Vars.Canonical t.tvars)
    (hwhole : ∀ e ∈ t.tvars, ReadRecord.Whole e.2) : t.Inv := by
  obtain ⟨hcfg, hresponse, hholder, hrvars⟩ := hst
  exact {
    layoutWf := by rw [hcfg]; exact hs.layoutWf
    rvarsCanonical := by rw [hrvars]; exact hs.rvarsCanonical
    tvarsCanonical := hcan
    responseFits := by rw [hcfg, hresponse]; exact hs.responseFits
    rvarsFit := by rw [hcfg, hrvars]; exact hs.rvarsFit
    holderFresh := by rw [hresponse, hholder]; exact hs.holderFresh
    holderFilled := by rw [hrvars, hholder]; exact hs.holderFilled
    tvarsWhole := hwhole }

theorem hostLine_keeps_inv {x : Line} {s t : State} (hs : s.Inv) (h : hostLine x s = .next t) : t.Inv := by
  obtain ⟨hside, -, ht | ⟨n, k, ht⟩⟩ := hostLine_frame h
  · exact inv_of_sameBlockSide hs hside (ht ▸ hs.tvarsCanonical) (ht ▸ hs.tvarsWhole)
  · refine inv_of_sameBlockSide hs hside (ht ▸ Vars.set_canonical _ _ hs.tvarsCanonical) fun e he => ?_
    rcases Vars.mem_set (ht ▸ he) with rfl | he
    · exact fun bs => readOutcome_whole k s
    · exact hs.tvarsWhole e he

/-- Settles O38, by the cases of a step: a response delivered, the host idling, a line of the host. -/
theorem everyStepKeepsTheInvariant : Obligations.EveryStepKeepsTheInvariant := by
  intro s t hs h
  rcases step_eq_next h with ⟨p, -, -, rfl⟩ | ⟨-, rfl⟩ | ⟨x, -, -, hx⟩
  · exact deliver_keeps_inv hs (responseTo_fits hs.layoutWf _)
  · exact hs
  · exact hostLine_keeps_inv hs hx

theorem resetWith_inv {c : Integration} (hwf : c.layout.wf = true) : (State.resetWith c).Inv := by
  constructor <;> simp [State.resetWith, hwf]

/-- Settles O39: after reset there is no response and no variable, and the layout is the one declared. -/
theorem invariantHoldsAtReset : Obligations.InvariantHoldsAtReset :=
  ⟨resetWith_inv (by decide), fun _ => resetWith_inv⟩

/-- Settles O36: the host idles or runs a line. -/
theorem hostLinesLeaveTheBlockSideAlone : Obligations.HostLinesLeaveTheBlockSideAlone := by
  intro s t hp h
  rcases step_eq_next h with ⟨p, hp', -, -⟩ | ⟨-, rfl⟩ | ⟨x, -, -, hx⟩
  · rw [hp] at hp'; cases hp'
  · exact ⟨rfl, rfl, rfl, rfl⟩
  · obtain ⟨hside, -, -⟩ := hostLine_frame hx
    exact hside

/-- Settles O35: a response leaves the configuration as it is, and it is part of the block's side. -/
theorem stepsNeverChangeTheConfiguration : Obligations.StepsNeverChangeTheConfiguration := by
  intro s t h
  cases hp : s.pending with
  | some p =>
    obtain ⟨-, rfl⟩ := exec_eq_next (step_of_pending hp ▸ h)
    rfl
  | none =>
    obtain ⟨hcfg, -, -, -⟩ := hostLinesLeaveTheBlockSideAlone s t hp h
    exact hcfg

/-- Settles O37: with a request on the ports the holder follows its response (O27), with none it stays. -/
theorem holderChangesOnlyByParsing : Obligations.HolderChangesOnlyByParsing := by
  intro s t h hne
  cases hp : s.pending with
  | some p =>
    rcases holderFollowsParseResponses s t _ (step_of_pending hp ▸ h) with
      ⟨B, r, hB, hlen, hresponse, hholder⟩ | ⟨B, -, -, -, hholder⟩ | ⟨-, -, hholder⟩
    · exact ⟨p, B, rfl, hB, hlen, r, hresponse, hholder⟩
    · exact absurd hholder hne
    · exact absurd hholder hne
  | none =>
    obtain ⟨-, -, hholder, -⟩ := hostLinesLeaveTheBlockSideAlone s t hp h
    exact absurd hholder hne

theorem step_serial {s t : State} (h : step s = .next t) : t.serial = s.serial := by
  rcases step_eq_next h with ⟨p, -, -, rfl⟩ | ⟨-, rfl⟩ | ⟨x, -, -, hx⟩
  · rfl
  · rfl
  · obtain ⟨-, hserial, -⟩ := hostLine_frame hx
    exact hserial

/-- R113: a step faults only where the transport is not created yet. -/
theorem step_eq_fault {s : State} {f : Fault} (h : step s = .fault f) : s.serial = none := by
  cases hp : s.pending with
  | some p => exact absurd (step_of_pending hp ▸ h) (exec_ne_fault _ s f)
  | none =>
    rw [step_of_idle_ports hp, hostStep] at h
    split at h
    · exact hostLine_eq_fault h
    · cases h

/-- Settles O41, by induction on the number of steps: none of them faults, and each leaves the transport there. -/
theorem noFaultOnceTheTransportExists : Obligations.NoFaultOnceTheTransportExists := by
  intro k
  induction k with
  | zero => intro s _ f h; cases h
  | succ k ih =>
    intro s hs f h
    cases hstep : step s with
    | next t =>
      rw [core_run_succ hstep] at h
      exact ih t (step_serial hstep ▸ hs) f h
    | fault r => exact hs (step_eq_fault hstep)
    | refused e =>
      have hcore : Sys2Proof.core.step s = .refused e := hstep
      simp [Host.Core.run, hcore] at h

end Sys2Proof.Machine
end

section
/-! The codec's corner cases, its round trip and the command table (40_codec.md sections 1, 2 and 5). Words are compared bit
by bit through `getLsbD_encodeWord` and `getLsbD_cutField`; a rising table has one entry per code, so `cmdLookup` finds
exactly its entries. -/

namespace Sys2Proof.Machine

theorem encodeWord_zero {L : Layout} (hwf : L.wf = true) : encodeWord L 0 0 0 = 0 := by
  apply BitVec.eq_of_getLsbD_eq
  intro k hk
  rw [getLsbD_encodeWord hwf _ _ _ hk]
  simp

theorem encodeWord_allOnes {L : Layout} (hwf : L.wf = true) :
    encodeWord L (.allOnes 16) (.allOnes 16) (.allOnes 16) = .allOnes 16 := by
  apply BitVec.eq_of_getLsbD_eq
  intro k hk
  rw [getLsbD_encodeWord hwf _ _ _ hk]
  simp only [BitVec.getLsbD_allOnes]
  split_ifs <;> grind

/-- Settles O8: the word of zeros is zero, the word of ones is all ones, and their bytes are evaluated. -/
theorem encodeExtremesUnderEveryLayout : Obligations.EncodeExtremesUnderEveryLayout := by
  intro s hwf
  refine ⟨⟨_, exec_of_wf _ hwf, ?_⟩, ⟨_, exec_of_wf _ hwf, ?_⟩⟩
  · rw [State.deliver_response, responseTo, encodeResponse, encodeWord_zero hwf]
    rfl
  · have hword : encodeWord s.cfg.layout 0xFFFF#16 0xFFFF#16 0xFFFF#16 = 0xFFFF#16 := encodeWord_allOnes hwf
    rw [State.deliver_response, responseTo, encodeResponse, hword]
    rfl

/-- Section 5: a word's own fields, put together again, are the word. -/
theorem encodeWord_decodeWord {L : Layout} (hwf : L.wf = true) (T : CmdTable) (w : Word16) :
    encodeWord L (decodeWord L T w).idOut (decodeWord L T w).commandOut (decodeWord L T w).payloadOut = w := by
  obtain ⟨hsum, -, -, -⟩ := (layout_wf_iff L).1 hwf
  apply BitVec.eq_of_getLsbD_eq
  intro k hk
  rw [getLsbD_encodeWord hwf _ _ _ hk]
  simp only [decodeWord, getLsbD_cutField, idShift, commandShift, payloadShift]
  split_ifs <;> grind

/-- Settles O14: both words are the encoding of the fields they share. -/
theorem decodeThenEncodeReturnsTheWord : Obligations.DecodeThenEncodeReturnsTheWord := by
  intro s w hwf
  refine ⟨_, _, _, highByte w, lowByte w, exec_of_wf _ hwf, rfl, exec_of_wf _ hwf, ?_, ?_⟩
  · rw [State.deliver_response, responseTo, State.deliver_cfg, encodeResponse, encodeWord_decodeWord hwf]
  · intro w' t' d' h hd' hid hcommand hpayload
    obtain ⟨-, rfl⟩ := exec_eq_next h
    cases hd'
    rw [← encodeWord_decodeWord hwf s.cfg.cmdTable w', hid, hcommand, hpayload, encodeWord_decodeWord hwf]

theorem rising_pairwise {T : CmdTable} (h : CmdTable.rising T = true) : T.Pairwise fun e f => e.1 < f.1 := by
  induction T using CmdTable.rising.induct with
  | case1 => exact .nil
  | case2 e => exact List.pairwise_singleton _ e
  | case3 e f rest ih =>
    simp only [CmdTable.rising, Bool.and_eq_true, decide_eq_true_eq] at h
    obtain ⟨hef, hrest⟩ := h
    refine List.pairwise_cons.2 ⟨fun g hg => ?_, ih hrest⟩
    rcases List.mem_cons.1 hg with rfl | hg
    · exact hef
    · exact hef.trans (List.rel_of_pairwise_cons (ih hrest) hg)

theorem cmdLookup_cons (e : Nat × CmdName) (T : CmdTable) (code : Nat) :
    cmdLookup (e :: T) code = if e.1 = code then some e.2 else cmdLookup T code := by
  unfold cmdLookup
  split_ifs with h <;> simp [h]

/-- R9: a rising table is a map, so looking a code up finds the entry that stands in the table. -/
theorem cmdLookup_eq_some_iff {T : CmdTable} (hT : CmdTable.rising T = true) (code : Nat) (name : CmdName) :
    cmdLookup T code = some name ↔ (code, name) ∈ T := by
  replace hT := rising_pairwise hT
  induction T with
  | nil => simp [cmdLookup]
  | cons e T ih =>
    obtain ⟨c, n⟩ := e
    obtain ⟨hc, hT⟩ := List.pairwise_cons.1 hT
    rw [cmdLookup_cons]
    split_ifs with h
    · have hnot : (code, name) ∉ T := fun hmem => (hc _ hmem).ne h
      simp_all [eq_comm]
    · simp [ih hT, Ne.symm h]

/-- R9, D6: what a well-formed table is. -/
theorem cmdTable_wf_iff (L : Layout) (T : CmdTable) : CmdTable.wf L T = true ↔
    CmdTable.rising T = true ∧ (∀ e ∈ T, e.1 < 2 ^ L.commandBits) ∧ ∀ e ∈ CmdTable.source L, e ∈ T := by
  simp [CmdTable.wf, CmdTable.keepsSource, and_assoc]

theorem classify_known {T : CmdTable} (hT : CmdTable.rising T = true) {c : Word16} {name : CmdName}
    (h : (c.toNat, name) ∈ T) : classify T c = .known name := by
  rw [classify, (cmdLookup_eq_some_iff hT _ _).2 h]

theorem classify_unknown {T : CmdTable} (hT : CmdTable.rising T = true) {c : Word16}
    (h : ∀ name, (c.toNat, name) ∉ T) : classify T c = .unknown c := by
  have hnone : cmdLookup T c.toNat = none :=
    Option.eq_none_iff_forall_ne_some.2 fun name hname => h name ((cmdLookup_eq_some_iff hT _ _).1 hname)
  rw [classify, hnone]

/-- Settles O16: the class is `classify` of the command, and the source's entry stands in every well-formed table. -/
theorem commandClassFollowsTheTable : Obligations.CommandClassFollowsTheTable := by
  intro s w t d _ htable h hd
  obtain ⟨hrising, -, hsource⟩ := (cmdTable_wf_iff _ _).1 htable
  obtain ⟨-, rfl⟩ := exec_eq_next h
  cases hd
  refine ⟨fun name => classify_known hrising, classify_unknown hrising, fun hL hcode => classify_known hrising ?_⟩
  have htest : (0b101, CmdName.test) ∈ s.cfg.cmdTable := hsource _ (by rw [hL]; decide)
  rw [← hcode] at htest
  exact htest

/-- Settles O17: each preset is well formed, and the word and its fields are evaluated. -/
theorem layoutMismatchIsNotDetected : Obligations.LayoutMismatchIsNotDetected := by
  intro s hs s' hs'
  refine ⟨_, _, 0x72#8, 0xFF#8, _, exec_of_wf _ (by rw [hs]; rfl), ?_, exec_of_wf _ (by rw [hs']; rfl), rfl, ?_⟩
  · rw [State.deliver_response, responseTo, hs]
    rfl
  · rw [hs']
    exact ⟨rfl, rfl, rfl⟩

end Sys2Proof.Machine
end

section
/-! What an operation leaves as it was (10_state.md section 3; 41_report_parser.md section 1; 60_exceptions.md R98). The
block's one way to answer is `State.deliver`, whose frame is stated once. -/

namespace Sys2Proof.Machine

/-- The frame of every operation: outside the ports, the holder and the variable that the request names nothing changes. -/
theorem exec_frame {i : Instr} {s t : State} (h : exec i s = .next t) :
    s.SameOutsideResponse t ∧ t.pending = none ∧
      (∀ n, s.pending.bind Pending.dst ≠ some n → Vars.get t.rvars n = Vars.get s.rvars n) ∧
      (∀ n, s.pending.bind Pending.dst = some n → Vars.get t.rvars n = t.response) := by
  obtain ⟨-, rfl⟩ := exec_eq_next h
  exact ⟨⟨rfl, rfl, rfl, rfl, rfl, rfl, rfl, rfl, rfl, rfl⟩, rfl, fun n hn => bindResponse_get_other _ _ _ hn,
    fun n hn => bindResponse_get_same _ _ hn⟩

/-- Settles O18: the frame of every operation, and only PARSE touches the holder. -/
theorem codecFrame : Obligations.CodecFrame := by
  intro s t i hi h
  obtain ⟨hout, hpending, hother, hsame⟩ := exec_frame h
  have hparse : ∀ B, i ≠ .parse B := by
    rcases hi with ⟨a, b, c, rfl⟩ | ⟨w, rfl⟩ | ⟨b0, b1, rfl⟩ <;> simp
  obtain ⟨-, rfl⟩ := exec_eq_next h
  exact ⟨hout, holderAfter_of_not_parsed _ (responseTo_ne_parsed s.cfg hparse), hpending, hother, hsame⟩

/-- Settles O26: the frame of every operation, and the holder by the length guard. -/
theorem parseFrame : Obligations.ParseFrame := by
  intro s t B h
  obtain ⟨hout, hpending, hother, hsame⟩ := exec_frame h
  obtain ⟨-, rfl⟩ := exec_eq_next h
  refine ⟨hout, hpending, fun hB => ?_, fun hB => ⟨reportOf B, ?_⟩, hother, hsame⟩
  · simp [responseTo, hB, holderAfter]
  · simp [responseTo, hB, holderAfter]

/-- Settles O29: the frame of every operation, with the length error as the response and the configuration unchanged for the
requests to come. -/
theorem lengthErrorChangesNothing : Obligations.LengthErrorChangesNothing := by
  intro s B hwf hB
  have h := exec_parse_of_length_ne hwf hB
  obtain ⟨hout, hpending, hother, hsame⟩ := exec_frame h
  exact ⟨_, h, rfl, hout, rfl, hpending, hother, hsame, fun i => ⟨_, _, exec_of_wf i hwf, exec_of_wf i hwf, rfl⟩⟩

/-- R35: a list of requests is served to its end and leaves the configuration as it was. -/
theorem serveAll_of_wf (is : List Instr) {s : State} (hwf : s.cfg.layout.wf = true) :
    ∃ t, serveAll is s = .next t ∧ t.cfg = s.cfg := by
  induction is generalizing s with
  | nil => exact ⟨s, rfl, rfl⟩
  | cons i rest ih =>
    rw [serveAll, exec_of_wf i hwf]
    exact ih (s := s.deliver (responseTo s.cfg i)) hwf

/-- Settles O31: what was served before leaves the configuration, on which alone the next response depends. -/
theorem anyOrderGivesTheSameResponses : Obligations.AnyOrderGivesTheSameResponses := by
  intro is s hwf
  obtain ⟨t, ht, hcfg⟩ := serveAll_of_wf is hwf
  refine ⟨t, ht, fun i => ⟨_, _, exec_of_wf i (hcfg ▸ hwf), exec_of_wf i hwf, ?_⟩⟩
  simp [hcfg]

/-- Settles O33: the step serves the decoded operation, whose frame names the variable. -/
theorem everyRequestIsAnsweredInOneStep : Obligations.EveryRequestIsAnsweredInOneStep := by
  intro s p hwf hp
  refine ⟨_, _, (step_of_pending hp).trans (exec_of_wf _ hwf), rfl, rfl, fun n hn => ?_⟩
  exact bindResponse_get_same _ _ (by simp [hp, hn])

/-- Settles O34: the layout is well formed or it is not. -/
theorem servedExactlyUnderWellFormedLayouts : Obligations.ServedExactlyUnderWellFormedLayouts := by
  intro s i
  rw [← layout_wf_iff, Bool.not_eq_true]
  refine ⟨fun hwf => ⟨_, exec_of_wf i hwf⟩, fun hwf => ?_⟩
  rw [exec_eq_serve, serve_of_not_wf _ hwf]

end Sys2Proof.Machine
end

section
/-! The report's fields and the frame's bytes (20_memory.md R27; 30_encoding.md R42 to R44). -/

namespace Sys2Proof.Machine

@[simp] theorem highByte_be2 (b0 b1 : Byte) : highByte (be2 b0 b1) = b0 :=
  BitVec.eq_of_toNat_eq (by rw [highByte_toNat, be2_toNat]; omega)

@[simp] theorem lowByte_be2 (b0 b1 : Byte) : lowByte (be2 b0 b1) = b1 :=
  BitVec.eq_of_toNat_eq (by rw [lowByte_toNat, be2_toNat]; omega)

/-- R27: the three bytes of a big-endian 24-bit value. -/
theorem be3_bytes (b0 b1 b2 : Byte) :
    (be3 b0 b1 b2).extractLsb 23 16 = b0 ∧ (be3 b0 b1 b2).extractLsb 15 8 = b1 ∧ (be3 b0 b1 b2).extractLsb 7 0 = b2 := by
  refine ⟨BitVec.eq_of_toNat_eq ?_, BitVec.eq_of_toNat_eq ?_, BitVec.eq_of_toNat_eq ?_⟩
  all_goals
    rw [BitVec.extractLsb_toNat, be3_toNat, Nat.shiftRight_eq_div_pow]
    omega

/-- Settles O25: the fields are `be2` and `be3` of the frame's bytes, which show those bytes again. -/
theorem reportFieldsShowTheFrameBytes : Obligations.ReportFieldsShowTheFrameBytes := by
  intro s t r b0 b1 b2 b3 b4 b5 b6 b7 b8 b9 b10 b11 b12 b13 b14 b15 b16 b17 h hr
  obtain ⟨-, rfl⟩ := exec_eq_next h
  cases hr
  exact ⟨highByte_be2 b1 b2, lowByte_be2 b1 b2, highByte_be2 b6 b7, lowByte_be2 b6 b7, highByte_be2 b13 b14,
    lowByte_be2 b13 b14, be3_bytes b10 b11 b12⟩

theorem extractLsb_toNat_eq_div_mod (b : Byte) (hi lo : Nat) :
    (b.extractLsb hi lo).toNat = b.toNat / 2 ^ lo % 2 ^ (hi - lo + 1) := by
  rw [BitVec.extractLsb_toNat, Nat.shiftRight_eq_div_pow]

/-- Settles O21: a bit field is the byte shifted down and cut to the field's width. -/
theorem parseBitFields : Obligations.ParseBitFields := by
  intro s b0 b1 b2 b3 b4 b5 b6 b7 b8 b9 b10 b11 b12 b13 b14 b15 b16 b17 hwf
  exact ⟨_, _, exec_parse_of_length_eq hwf rfl, rfl, rfl,
    (extractLsb_toNat_eq_div_mod b15 1 0).trans (by omega), extractLsb_toNat_eq_div_mod b15 5 2,
    extractLsb_toNat_eq_div_mod b15 6 6, extractLsb_toNat_eq_div_mod b15 7 7,
    (extractLsb_toNat_eq_div_mod b16 0 0).trans (by omega), extractLsb_toNat_eq_div_mod b16 3 2, rfl, rfl⟩

/-- The bits of a byte at which a mask has ones are those of the masked byte. -/
theorem extractLsb_eq_of_and_eq {b b' m : Byte} {hi lo : Nat} (h : b &&& m = b' &&& m)
    (hm : m.extractLsb hi lo = BitVec.allOnes _) : b.extractLsb hi lo = b'.extractLsb hi lo := by
  have hcut (x : Byte) : (x &&& m).extractLsb hi lo = x.extractLsb hi lo := by
    rw [BitVec.extractLsb_and, hm, BitVec.and_allOnes]
  rw [← hcut b, h, hcut b']

/-- Settles O24: of byte 16 the report holds bit 0 and bits 3:2 only, which the mask 0b00001101 keeps. -/
theorem reservedBitsAreIgnored : Obligations.ReservedBitsAreIgnored := by
  intro s b0 b1 b2 b3 b4 b5 b6 b7 b8 b9 b10 b11 b12 b13 b14 b15 b16 b16' b17 hwf h
  have hdiagnostic : b16.extractLsb 0 0 = b16'.extractLsb 0 0 := extractLsb_eq_of_and_eq h (by decide)
  have hpower : b16.extractLsb 3 2 = b16'.extractLsb 3 2 := extractLsb_eq_of_and_eq h (by decide)
  refine ⟨_, exec_parse_of_length_eq hwf rfl, ?_⟩
  rw [exec_parse_of_length_eq hwf rfl]
  simp only [reportOf, byteAt, List.getD_cons_succ, List.getD_cons_zero, hdiagnostic, hpower]

end Sys2Proof.Machine
end

section
/-! Reset and boot (70_reset_and_hazards.md R111 to R113). Boot goes through exactly one way, and every refusal on it has the
name of the check that failed. -/

namespace Sys2Proof.Machine

theorem declareIntegration_eq_next {c : Integration} {s : State} (h : declareIntegration c = .next s) :
    c.wf = true ∧ s = { State.resetWith c with serial := none } := by
  unfold declareIntegration at h
  split_ifs at h with hlayout htable
  cases h
  exact ⟨by rw [Integration.wf, hlayout, htable]; rfl, rfl⟩

theorem loadScript_eq_next {ls : List Line} {s t : State} (h : loadScript ls s = .next t) :
    Script.wf s.cfg ls = true ∧ t = { s with script := ls, pos := 0, rvars := [], tvars := [] } := by
  unfold loadScript at h
  split_ifs at h with hwf
  cases h
  exact ⟨hwf, rfl⟩

/-- R113: a boot that goes through leaves the state after reset with the script loaded. -/
theorem boot_eq_next {c : Integration} {ls : List Line} {s : State} (h : boot c ls = .next s) :
    c.wf = true ∧ Script.wf c ls = true ∧ s = { State.resetWith c with script := ls } := by
  unfold boot at h
  split at h
  · rename_i s₀ h₀
    obtain ⟨hc, rfl⟩ := declareIntegration_eq_next h₀
    obtain ⟨hls, rfl⟩ := loadScript_eq_next h
    exact ⟨hc, hls, rfl⟩
  · cases h
  · cases h

/-- Settles O42: the two refusals of a declaration, the source's entry that a well-formed table has, the state that
`boot_eq_next` gives, and the fault of a read before the transport is created. -/
theorem bootDeclaresThenServes : Obligations.BootDeclaresThenServes := by
  refine ⟨fun c ls hlayout => ?_, fun c ls hlayout htable => ?_, fun T hT => ?_, fun c ls s h => ?_, fun c s n k h => ?_⟩
  · simp [boot, declareIntegration, hlayout]
  · simp [boot, declareIntegration, hlayout, htable]
  · rw [← Bool.not_eq_true, cmdTable_wf_iff]
    exact fun ⟨_, _, hsource⟩ => hT (hsource _ (by decide))
  · obtain ⟨hc, hls, rfl⟩ := boot_eq_next h
    have hlayout : c.layout.wf = true := (Bool.and_eq_true_iff.1 hc).1
    exact ⟨rfl, hc, rfl, rfl, rfl, rfl, hls, fun i => ⟨_, exec_of_wf i hlayout⟩⟩
  · obtain ⟨-, rfl⟩ := declareIntegration_eq_next h
    rfl

/-- Settles O40: a reset names its fields, and keeps the configuration, on which alone a response depends. -/
theorem resetLeavesTheConfigurationAndEmptiesTheHolder : Obligations.ResetLeavesTheConfigurationAndEmptiesTheHolder := by
  refine ⟨fun s => ⟨rfl, rfl, rfl⟩, fun s t i h => ?_, by decide, rfl⟩
  exact responseDependsOnRequestAndConfigurationOnly s s.afterReset t i rfl h

end Sys2Proof.Machine
end

section
/-! Operands and the request ports (30_encoding.md R51, R52; 10_state.md R22, R23). A request line reads its ports from left
to right: with every operand one its port takes it forms its operation, and the first operand that has no value there refuses
the line. -/

namespace Sys2Proof.Machine

/-! ### Operands -/

theorem evalOperand_result {s : State} {r : Nat} {f : ResultField} {resp : Response} {v : Value}
    (hr : Vars.get s.rvars r = some resp) (hf : resultField resp f = some v) : evalOperand s (.result r f) = .ok v := by
  simp [evalOperand, hr, hf]

theorem evalOperand_result_unwritten {s : State} {r : Nat} (f : ResultField) (hr : Vars.get s.rvars r = none) :
    evalOperand s (.result r f) = .ok .unstated := by
  simp [evalOperand, hr]

theorem evalOperand_noSuchResult {s : State} {r : Nat} {f : ResultField} {resp : Response}
    (hr : Vars.get s.rvars r = some resp) (hf : resultField resp f = none) :
    evalOperand s (.result r f) = .error (.noSuchResult r) := by
  simp [evalOperand, hr, hf]

theorem evalOperand_read {s : State} {t : Nat} {rec : ReadRecord} (h : Vars.get s.tvars t = some rec) :
    evalOperand s (.read t) = .ok (readValue rec.result) := by
  simp [evalOperand, h]

/-- The fields of the report, in the order of R65. -/
def reportFields : List ReportField :=
  [.startOfFrame, .transportBlock, .bitErrorRate, .signalPower, .noisePower, .packetValid, .packetInvalid,
    .firmwareVersion, .timeSinceBoot, .chipId, .hwRev, .channel, .tbValid, .txComplete, .diagnostic, .powerLevel,
    .endOfFrame]

/-- Settles O60: each response form has its fields, and the report's numbers are `reportField` of its 17 fields. -/
theorem operandsNameTheirValues : Obligations.OperandsNameTheirValues := by
  intro s v
  refine ⟨fun n => rfl, fun w b0 b1 h => ?_, fun d h => ?_, fun n h => ?_, fun r h => ⟨?_, ?_, fun f n hfn => ?_⟩,
    fun k bs h => evalOperand_read h, fun k h => evalOperand_read h⟩
  · exact ⟨evalOperand_result h rfl, evalOperand_result h rfl, evalOperand_result h rfl, evalOperand_result h rfl,
      evalOperand_result h rfl⟩
  · exact ⟨evalOperand_result h rfl, evalOperand_result h rfl, evalOperand_result h rfl, evalOperand_result h rfl,
      evalOperand_result h rfl⟩
  · exact ⟨evalOperand_result h rfl, evalOperand_result h rfl⟩
  · exact evalOperand_result h rfl
  · exact evalOperand_result h rfl
  · have hmem : (f, n) ∈ reportFields.map fun g => (g, reportField r g) := hfn
    obtain ⟨g, -, hg⟩ := List.mem_map.1 hmem
    cases hg
    exact evalOperand_result h rfl

/-! ### Ports -/

section
variable (s : State) (place : Nat) {w n : Nat}

theorem portValue_lit_of_lt (h : n < 2 ^ w) : portValue s place w (.lit n) = .ok (BitVec.ofNat w n) :=
  if_pos h

theorem portValue_lit_of_ge (h : 2 ^ w ≤ n) : portValue s place w (.lit n) = .error .literalTooWide :=
  if_neg (Nat.not_lt.2 h)

@[simp] theorem portValue_byteLit (b : Byte) : portValue s place 8 (.lit b.toNat) = .ok b := by
  rw [portValue_lit_of_lt s place b.isLt, BitVec.ofNat_toNat, BitVec.setWidth_eq]

end

/-- An operand that its port takes is on the port, as it is where it is a number that fits. -/
theorem portValue_of_portOperand {s : State} {w : Nat} {a : Operand} (place : Nat) (h : PortOperand s w a) :
    ∃ x, portValue s place w a = .ok x ∧ OnPort s a x := by
  cases a with
  | lit n =>
    refine ⟨_, portValue_lit_of_lt s place h, fun v m hv hm _ => ?_⟩
    cases hv
    cases hm
    rfl
  | result r f =>
    cases hr : Vars.get s.rvars r with
    | none =>
      have heval := evalOperand_result_unwritten f hr
      refine ⟨_, by rw [portValue, heval]; rfl, fun v n hv hn _ => ?_⟩
      cases heval.symm.trans hv
      cases hn
    | some resp =>
      obtain ⟨v, n, hf, hn⟩ := h resp hr
      have heval := evalOperand_result hr hf
      obtain ⟨x, hx⟩ := fitPort_of_number s.lineCount place w hn
      refine ⟨x, by rw [portValue, heval]; exact hx, fun v' n' hv' hn' hlt => ?_⟩
      cases heval.symm.trans hv'
      exact Except.ok.inj (hx.symm.trans (fitPort_of_lt _ _ hn' hlt))
  | read t => exact h.elim

/-- A value that is no number has no place on a port. -/
theorem portValue_wrongKind {s : State} {r : Nat} {f : ResultField} {v : Value} (place w : Nat)
    (hv : evalOperand s (.result r f) = .ok v) (hn : v.number = none) (hu : v ≠ .unstated) :
    portValue s place w (.result r f) = .error .wrongKind := by
  rw [portValue, hv]
  cases v with
  | num n => cases hn
  | word x => cases hn
  | bytes bs => rfl
  | timeoutError => rfl
  | cls c => rfl
  | report rep => rfl
  | unstated => exact absurd rfl hu

/-- The bytes of a frame whose operands all have a value at their ports. -/
theorem frameBytes_of_portOperands {s : State} {as : List Operand} (place : Nat) (h : ∀ x ∈ as, PortOperand s 8 x) :
    ∃ bs, frameBytes s place as = .ok bs ∧ bs.length = as.length ∧
      ∀ (j : Nat) (x : Operand) (y : Byte), as[j]? = some x → bs[j]? = some y → OnPort s x y := by
  induction as generalizing place with
  | nil => exact ⟨[], rfl, rfl, by simp⟩
  | cons a rest ih =>
    obtain ⟨ha, hrest⟩ := List.forall_mem_cons.1 h
    obtain ⟨b, hb, hon⟩ := portValue_of_portOperand place ha
    obtain ⟨bs, hbs, hlen, hall⟩ := ih (place + 1) hrest
    refine ⟨b :: bs, by rw [frameBytes, hb]; simp only [Except.bind, hbs], by simp [hlen], fun j x y hx hy => ?_⟩
    cases j with
    | zero => cases hx; cases hy; exact hon
    | succ j => exact hall j x y hx hy

theorem frameBytes_byteLits (s : State) (place : Nat) (bs : List Byte) :
    frameBytes s place (bs.map fun b => .lit b.toNat) = .ok bs := by
  induction bs generalizing place with
  | nil => rfl
  | cons b rest ih =>
    rw [List.map_cons, frameBytes, portValue_byteLit]
    simp only [Except.bind, ih]

/-- The first operand of a frame that its port does not take refuses the frame. -/
theorem frameBytes_eq_error {s : State} {before after : List Operand} {x : Operand} {e : Refusal} (place : Nat)
    (hbefore : ∀ y ∈ before, PortOperand s 8 y) (hx : ∀ place, portValue s place 8 x = .error e) :
    frameBytes s place (before ++ x :: after) = .error e := by
  induction before generalizing place with
  | nil => rw [List.nil_append, frameBytes, hx]; rfl
  | cons a rest ih =>
    obtain ⟨ha, hrest⟩ := List.forall_mem_cons.1 hbefore
    obtain ⟨b, hb, -⟩ := portValue_of_portOperand place ha
    rw [List.cons_append, frameBytes, hb]
    simp only [Except.bind, ih (place + 1) hrest]

/-! ### Request lines -/

section
variable {s : State} {a b c : Operand}

theorem formInstr_enc {i k p : Word16} (ha : portValue s 0 16 a = .ok i) (hb : portValue s 1 16 b = .ok k)
    (hc : portValue s 2 16 c = .ok p) : formInstr s (.enc a b c) = .ok (some (.enc i k p)) := by
  simp only [formInstr, ha, hb, hc, Except.bind]

theorem formInstr_decw {w : Word16} (ha : portValue s 0 16 a = .ok w) :
    formInstr s (.decw a) = .ok (some (.decw w)) := by
  simp only [formInstr, ha, Except.bind]

theorem formInstr_decb {b0 b1 : Byte} (ha : portValue s 0 8 a = .ok b0) (hb : portValue s 1 8 b = .ok b1) :
    formInstr s (.decb a b) = .ok (some (.decb b0 b1)) := by
  simp only [formInstr, ha, hb, Except.bind]

theorem formInstr_parse {as : List Operand} {bs : List Byte} (h : frameBytes s 0 as = .ok bs) :
    formInstr s (.parse as) = .ok (some (.parse bs)) := by
  simp only [formInstr, h, Except.bind]

theorem formInstr_encn {name : CmdName} {code : Nat} {i p : Word16} (hcode : commandCode s.cfg name = .ok code)
    (ha : portValue s 0 16 a = .ok i) (hb : portValue s 1 16 b = .ok p) :
    formInstr s (.encn name a b) = .ok (some (.enc i (BitVec.ofNat 16 code) p)) := by
  simp only [formInstr, hcode, ha, hb, Except.bind]

end

/-- Settles O59: each operand is on its port by `portValue_of_portOperand`, and the request forms its operation. -/
theorem numbersOfResultsGoOntoThePorts : Obligations.NumbersOfResultsGoOntoThePorts := by
  intro s a b c
  refine ⟨fun ha hb hc => ?_, fun ha => ?_, fun ha hb => ?_, fun as has => ?_, fun name code hcode ha hb => ?_⟩
  · obtain ⟨i, hi, hai⟩ := portValue_of_portOperand 0 ha
    obtain ⟨k, hk, hbk⟩ := portValue_of_portOperand 1 hb
    obtain ⟨p, hp, hcp⟩ := portValue_of_portOperand 2 hc
    exact ⟨i, k, p, formInstr_enc hi hk hp, hai, hbk, hcp⟩
  · obtain ⟨w, hw, haw⟩ := portValue_of_portOperand 0 ha
    exact ⟨w, formInstr_decw hw, haw⟩
  · obtain ⟨b0, h0, ha0⟩ := portValue_of_portOperand 0 ha
    obtain ⟨b1, h1, hb1⟩ := portValue_of_portOperand 1 hb
    exact ⟨b0, b1, formInstr_decb h0 h1, ha0, hb1⟩
  · obtain ⟨bs, hbs, hlen, hon⟩ := frameBytes_of_portOperands 0 has
    exact ⟨bs, formInstr_parse hbs, hlen, hon⟩
  · obtain ⟨i, hi, hai⟩ := portValue_of_portOperand 0 ha
    obtain ⟨p, hp, hbp⟩ := portValue_of_portOperand 1 hb
    exact ⟨i, p, formInstr_encn hcode hi hp, hai, hbp⟩

/-- The width of the operand ports a request reads (10_state.md R22). `parse tN` reads none; the bytes of its frame are 8 bits
wide. -/
def portBits : ReqStmt → Nat
  | .enc _ _ _ => 16
  | .decw _ => 16
  | .decb _ _ => 8
  | .parse _ => 8
  | .parseRead _ => 8
  | .encn _ _ _ => 16
  | .decbBytesOut _ => 8

/-- An operand that has no value at the port where the request reads it refuses the request. -/
theorem formInstr_eq_error {s : State} {q : ReqStmt} {x : Operand} {e : Refusal} (hread : ReadsAtPort s x q)
    (hx : ∀ place, portValue s place (portBits q) x = .error e) : formInstr s q = .error e := by
  cases q with
  | enc a b c =>
    simp only [portBits] at hx
    rcases hread with rfl | ⟨ha, rfl⟩ | ⟨ha, hb, rfl⟩
    · simp only [formInstr, hx _, Except.bind]
    · obtain ⟨i, hi, -⟩ := portValue_of_portOperand 0 ha
      simp only [formInstr, hi, hx _, Except.bind]
    · obtain ⟨i, hi, -⟩ := portValue_of_portOperand 0 ha
      obtain ⟨k, hk, -⟩ := portValue_of_portOperand 1 hb
      simp only [formInstr, hi, hk, hx _, Except.bind]
  | decw a =>
    simp only [portBits] at hx
    obtain rfl : a = x := hread
    simp only [formInstr, hx _, Except.bind]
  | decb a b =>
    simp only [portBits] at hx
    rcases hread with rfl | ⟨ha, rfl⟩
    · simp only [formInstr, hx _, Except.bind]
    · obtain ⟨b0, h0, -⟩ := portValue_of_portOperand 0 ha
      simp only [formInstr, h0, hx _, Except.bind]
  | parse as =>
    obtain ⟨before, after, rfl, hbefore⟩ := hread
    simp only [formInstr, frameBytes_eq_error 0 hbefore hx, Except.bind]
  | parseRead t => exact hread.elim
  | encn name a b =>
    simp only [portBits] at hx
    obtain ⟨⟨code, hcode⟩, rfl | ⟨ha, rfl⟩⟩ := hread
    · simp only [formInstr, hcode, hx _, Except.bind]
    · obtain ⟨i, hi, -⟩ := portValue_of_portOperand 0 ha
      simp only [formInstr, hcode, hi, hx _, Except.bind]
  | decbBytesOut r =>
    simp only [portBits] at hx
    obtain rfl : Operand.result r (.bytesOutAt 0) = x := hread
    simp only [formInstr, hx _, Except.bind]

theorem formInstr_wideLit {s : State} {q : ReqStmt} {n : Nat} (hread : ReadsAtPort s (.lit n) q)
    (hn : 2 ^ portBits q ≤ n) : formInstr s q = .error .literalTooWide :=
  formInstr_eq_error hread fun place => portValue_lit_of_ge s place hn

/-- A list with a number of `2 ^ 8` or more has a first one, and the literals before it fit a byte. -/
theorem readsAtPort_parse_wideLit (s : State) {ns : List Nat} (h : ∃ n ∈ ns, 2 ^ 8 ≤ n) :
    ∃ n, 2 ^ 8 ≤ n ∧ ReadsAtPort s (.lit n) (.parse (ns.map .lit)) := by
  obtain ⟨n, hn⟩ := Option.isSome_iff_exists.1 (List.find?_isSome (p := fun n => decide (2 ^ 8 ≤ n)).2 (by simpa using h))
  obtain ⟨hwide, before, after, rfl, hbefore⟩ := List.find?_eq_some_iff_append.1 hn
  refine ⟨n, by simpa using hwide, before.map .lit, after.map .lit, by simp, fun y hy => ?_⟩
  obtain ⟨m, hm, rfl⟩ := List.mem_map.1 hy
  simpa [PortOperand] using hbefore m hm

/-- Settles O44: literals that fit are on their ports, and the first that does not refuses the request. -/
theorem literalRequestLines : Obligations.LiteralRequestLines := by
  intro s a b c
  refine ⟨fun ha hb hc => ?_, fun ha => ?_, fun ha hb => ?_, fun bs => ?_, fun h => ?_, fun ha => ?_, fun h => ?_,
    fun ns h => ?_, fun name code hcode h => ?_⟩
  · exact formInstr_enc (portValue_lit_of_lt s 0 ha) (portValue_lit_of_lt s 1 hb) (portValue_lit_of_lt s 2 hc)
  · exact formInstr_decw (portValue_lit_of_lt s 0 ha)
  · exact formInstr_decb (portValue_lit_of_lt s 0 ha) (portValue_lit_of_lt s 1 hb)
  · exact formInstr_parse (frameBytes_byteLits s 0 bs)
  · rcases le_or_gt (2 ^ 16) a with ha | ha
    · exact formInstr_wideLit (.inl rfl) ha
    rcases le_or_gt (2 ^ 16) b with hb | hb
    · exact formInstr_wideLit (.inr (.inl ⟨ha, rfl⟩)) hb
    · exact formInstr_wideLit (.inr (.inr ⟨ha, hb, rfl⟩)) (show 2 ^ 16 ≤ c by omega)
  · exact formInstr_wideLit rfl ha
  · rcases le_or_gt (2 ^ 8) a with ha | ha
    · exact formInstr_wideLit (.inl rfl) ha
    · exact formInstr_wideLit (.inr ⟨ha, rfl⟩) (show 2 ^ 8 ≤ b by omega)
  · obtain ⟨n, hn, hread⟩ := readsAtPort_parse_wideLit s h
    exact formInstr_wideLit hread hn
  · rcases le_or_gt (2 ^ 16) a with ha | ha
    · exact formInstr_wideLit ⟨⟨code, hcode⟩, .inl rfl⟩ ha
    · exact formInstr_wideLit ⟨⟨code, hcode⟩, .inr ⟨ha, rfl⟩⟩ (show 2 ^ 16 ≤ b by omega)

/-! ### Command names -/

theorem mem_codesOf {c : Integration} {name : CmdName} {code : Nat} :
    code ∈ codesOf c name ↔ code < 2 ^ c.layout.commandBits ∧ cmdLookup c.cmdTable code = some name := by
  simp [codesOf]

/-- A code found in a table, whatever its form, is one of an entry. -/
theorem mem_of_cmdLookup {T : CmdTable} {code : Nat} {name : CmdName} (h : cmdLookup T code = some name) :
    (code, name) ∈ T := by
  obtain ⟨e, he, rfl⟩ := Option.map_eq_some_iff.1 h
  obtain rfl : e.1 = code := by simpa using List.find?_some he
  exact List.mem_of_find?_eq_some he

theorem commandCode_of_no_entry {c : Integration} {name : CmdName} (h : ∀ e ∈ c.cmdTable, e.2 ≠ name) :
    commandCode c name = .error .unknownCommandName := by
  have hnil : codesOf c name = [] :=
    List.eq_nil_iff_forall_not_mem.2 fun code hcode => h _ (mem_of_cmdLookup (mem_codesOf.1 hcode).2) rfl
  rw [commandCode, hnil]

/-- A list without repetition in which one value stands and no other is that value alone. -/
theorem eq_singleton_of_nodup {α : Type} {l : List α} {a : α} (hl : l.Nodup) (h : ∀ x, x ∈ l ↔ x = a) : l = [a] :=
  List.perm_singleton.1 ((List.perm_ext_iff_of_nodup hl (List.nodup_singleton a)).2 (by simpa using h))

/-- R52: CMD_TABLE^-1 of a name with one entry in a well-formed table is that entry's code. -/
theorem commandCode_of_unique {c : Integration} {name : CmdName} {code : Nat}
    (htable : CmdTable.wf c.layout c.cmdTable = true) (hmem : (code, name) ∈ c.cmdTable)
    (hunique : ∀ e ∈ c.cmdTable, e.2 = name → e.1 = code) : commandCode c name = .ok code := by
  obtain ⟨hrising, hbound, -⟩ := (cmdTable_wf_iff _ _).1 htable
  have hcodes : codesOf c name = [code] := by
    refine eq_singleton_of_nodup (List.nodup_range.filter _) fun x => ?_
    rw [mem_codesOf, cmdLookup_eq_some_iff hrising]
    constructor
    · rintro ⟨-, hx⟩
      exact hunique _ hx rfl
    · rintro rfl
      exact ⟨hbound _ hmem, hmem⟩
  rw [commandCode, hcodes]

theorem formInstr_encn_of_no_entry {s : State} {name : CmdName} (a b : Operand) (h : ∀ e ∈ s.cfg.cmdTable, e.2 ≠ name) :
    formInstr s (.encn name a b) = .error .unknownCommandName := by
  simp only [formInstr, commandCode_of_no_entry h, Except.bind]

theorem fitPort_byte (k place : Nat) (b : Byte) : fitPort k place 8 (.num b.toNat) = .ok b := by
  rw [fitPort_of_lt k place rfl b.isLt, BitVec.ofNat_toNat, BitVec.setWidth_eq]

/-- The two bytes of `bytes_out` on a port of 8 bits. -/
theorem portValue_bytesOutAt {s : State} {m : Nat} {w : Word16} {b0 b1 : Byte} (place : Nat) (k : Fin 2)
    (h : Vars.get s.rvars m = some (.encoded w b0 b1)) :
    portValue s place 8 (.result m (.bytesOutAt k)) = .ok (if k = 0 then b0 else b1) := by
  rw [portValue, evalOperand_result h rfl]
  exact fitPort_byte _ _ _

/-- Settles O45: the code of a name by `commandCode`, and the two bytes of `bytes_out` on the ports of DECODE_BYTES. -/
theorem pseudoOperationsExpand : Obligations.PseudoOperationsExpand := by
  intro s
  refine ⟨fun name code a b htable hmem hunique ha hb => ?_, fun name a b h => formInstr_encn_of_no_entry a b h,
    fun m w b0 b1 h => ?_⟩
  · exact formInstr_encn (commandCode_of_unique htable hmem hunique) (portValue_lit_of_lt s 0 ha)
      (portValue_lit_of_lt s 1 hb)
  · exact formInstr_decb (portValue_bytesOutAt 0 0 h) (portValue_bytesOutAt 1 1 h)

end Sys2Proof.Machine
end

section
/-! The host's lines (30_encoding.md R51, R52; 45_transport_boundary.md). Each kind of line has an equation for its step; the
statements about request lines, branches, sends and reads are read off these equations. -/

namespace Sys2Proof.Machine

section
variable {s : State} (hp : s.pending = none)
include hp

/-! ### The step of each line -/

theorem step_request {n : Nat} {q : ReqStmt} {i : Option Instr} (hx : s.script[s.pos]? = some (.request n q))
    (hq : formInstr s q = .ok i) : step s = .next (issueRequest n i s) := by
  rw [step_of_line hp hx, hostLine, hostRequest, hq]
  rfl

theorem step_request_refused {n : Nat} {q : ReqStmt} {e : Refusal} (hx : s.script[s.pos]? = some (.request n q))
    (hq : formInstr s q = .error e) : step s = .refused e := by
  rw [step_of_line hp hx, hostLine, hostRequest, hq]
  rfl

theorem step_label {l : Nat} (hx : s.script[s.pos]? = some (.label l)) : step s = .next s.advance := by
  rw [step_of_line hp hx, hostLine]

theorem step_jmp {l : Nat} (hx : s.script[s.pos]? = some (.jmp l)) : step s = branch true l s := by
  rw [step_of_line hp hx, hostLine]

theorem step_halt (hx : s.script[s.pos]? = some .halt) : step s = .next s := by
  rw [step_of_line hp hx, hostLine]

theorem step_bokResponse {n l : Nat} (hx : s.script[s.pos]? = some (.bokResponse n l)) :
    step s = hostBokResponse n l s := by
  rw [step_of_line hp hx, hostLine]

theorem step_bokRead {n l : Nat} (hx : s.script[s.pos]? = some (.bokRead n l)) :
    step s = branch (readOf s n != .timeoutError) l s := by
  rw [step_of_line hp hx, hostLine, hostBokRead]

theorem step_beq {a b : Operand} {l : Nat} {x y : Value} (hx : s.script[s.pos]? = some (.beq a b l))
    (ha : evalOperand s a = .ok x) (hb : evalOperand s b = .ok y) :
    step s = branch ((x.equal y).getD (Config.freeChoice s.lineCount)) l s := by
  rw [step_of_line hp hx, hostLine, hostBeq, ha, hb]
  rfl

theorem step_send {a : Operand} {v : Value} (ht : s.serial ≠ none) (hx : s.script[s.pos]? = some (.send a))
    (ha : evalOperand s a = .ok v) : step s = .next (s.putOnLine (lineBytes s.lineCount a v)).advance := by
  rw [step_of_line hp hx, hostLine, hostSend, ha]
  exact withTransport_of_ne_none _ ht

theorem step_read {n k : Nat} (ht : s.serial ≠ none) (hx : s.script[s.pos]? = some (.read n k)) :
    step s = .next ((afterRead s).bindRead n { asked := k, result := readOutcome k s }).advance := by
  rw [step_of_line hp hx, hostLine, hostRead]
  exact withTransport_of_ne_none _ ht

theorem step_sequencer {op : SeqOp} {arg : Nat} (ht : s.serial ≠ none)
    (hx : s.script[s.pos]? = some (.sequencer op arg)) (hok : sequencerAccepts op arg = true) :
    step s = .next (runActions (Config.seqScript op arg) s).advance := by
  rw [step_of_line hp hx, hostLine, hostSequencer, if_pos hok]
  exact withTransport_of_ne_none _ ht

theorem step_sequencer_ignored {op : SeqOp} {arg : Nat} (hx : s.script[s.pos]? = some (.sequencer op arg))
    (hno : sequencerAccepts op arg = false) : step s = .next s.advance := by
  rw [step_of_line hp hx, hostLine, hostSequencer, hno]
  rfl

end

/-! ### Requests -/

/-- The step after a request line serves the operation that the line put on the ports. -/
theorem step_issued {s : State} (dst : Option Nat) (i : Instr) (hwf : s.cfg.layout.wf = true) :
    step (s.issue dst (encode i)).advance = .next ((s.issue dst (encode i)).advance.deliver (responseTo s.cfg i)) := by
  rw [step_of_pending rfl, decode_encode]
  exact exec_of_wf i hwf

/-- Settles O43: the line puts the encoding on the ports, and the next step serves what it decodes to. -/
theorem requestLineBringsItsResponse : Obligations.RequestLineBringsItsResponse := by
  intro s n q i hwf hp hx hq
  exact ⟨_, _, _, responseTo s.cfg i, step_request hp hx hq, rfl, step_issued (some n) i hwf, exec_of_wf i hwf, rfl, rfl,
    Vars.get_set_same _ _ _, rfl, rfl, rfl⟩

theorem readOf_of_get {s : State} {t : Nat} {rec : ReadRecord} (h : Vars.get s.tvars t = some rec) :
    readOf s t = rec.result := by
  rw [readOf, h]

theorem formInstr_parseRead_bytes {s : State} {t : Nat} {bs : List Byte} (h : readOf s t = .bytes bs) :
    formInstr s (.parseRead t) = .ok (some (.parse bs)) := by
  rw [formInstr, h]

theorem formInstr_parseRead_timeoutError {s : State} {t : Nat} (h : readOf s t = .timeoutError) :
    formInstr s (.parseRead t) = .ok none := by
  rw [formInstr, h]

/-- Settles O57, by the outcome of the read, which is a free one where none is bound. -/
theorem parseOfAReadFollowsItsOutcome : Obligations.ParseOfAReadFollowsItsOutcome := by
  intro s n t k hp hx
  refine ⟨fun bs h => ?_, fun h => ?_, fun _ => ?_⟩
  · exact step_request hp hx (formInstr_parseRead_bytes (readOf_of_get h))
  · exact ⟨_, step_request hp hx (formInstr_parseRead_timeoutError (readOf_of_get h)), ⟨rfl, rfl, rfl, rfl⟩, hp, rfl, rfl,
      rfl, rfl⟩
  · cases h : readOf s t with
    | bytes bs => exact .inl ⟨bs, step_request hp hx (formInstr_parseRead_bytes h)⟩
    | timeoutError => exact .inr (step_request hp hx (formInstr_parseRead_timeoutError h))

/-! ### Branches -/

theorem Value.equal_of_numbers {x y : Value} {m n : Nat} (hx : x.number = some m) (hy : y.number = some n) :
    x.equal y = some (m == n) := by
  simp only [Value.equal, hx, hy]

/-- Settles O51: with its label defined a branch goes there or to the next line, by the condition that R51 gives. -/
theorem branchesFollowTheScript : Obligations.BranchesFollowTheScript := by
  intro s hp
  refine ⟨fun hx k => ?_, fun l p hl => ⟨fun hx => ?_, fun n r hx hr => ?_, fun n k bs hx hr => ?_, fun n k hx hr => ?_,
    fun a b hx => ?_, fun a b x y hx ha hb => ⟨fun m n hm hn => ?_, ?_, ?_, ?_, ?_, ?_⟩⟩⟩
  · induction k with
    | zero => rfl
    | succ k ih => rw [core_run_succ (step_halt hp hx), ih]
  · rw [step_jmp hp hx, branch_of_label _ hl, if_pos rfl]
  · rw [step_bokResponse hp hx, hostBokResponse, hr]
    simp only [branch_of_label _ hl, beq_iff_eq]
  · rw [step_bokRead hp hx, readOf_of_get hr, branch_of_label _ hl]
    rfl
  · rw [step_bokRead hp hx, readOf_of_get hr, branch_of_label _ hl]
    rfl
  · rw [step_beq hp hx rfl rfl, Value.equal_of_numbers rfl rfl, branch_of_label _ hl]
    simp only [Option.getD_some, beq_iff_eq]
  all_goals rw [step_beq hp hx ha hb, branch_of_label _ hl]
  · simp only [Value.equal_of_numbers hm hn, Option.getD_some, beq_iff_eq]
  · rintro m n rfl rfl
    simp [Value.equal, Value.number]
  · rintro rfl rfl
    rfl
  · rintro m (⟨rfl, rfl⟩ | ⟨rfl, rfl⟩) <;> rfl
  · rintro m n rfl rfl
    simp [Value.equal, Value.number]
  · rintro m n rfl rfl
    simp [Value.equal, Value.number]

theorem branch_goes_on {s : State} {l p : Nat} (b : Bool) (h : findLabel s l = some p) :
    branch b l s = .next (s.goto p) ∨ branch b l s = .next s.advance := by
  rw [branch_of_label b h]
  cases b
  · exact .inr rfl
  · exact .inl rfl

theorem branch_undefinedLabel {s : State} {l : Nat} (h : findLabel s l = none) :
    branch true l s = .refused (.undefinedLabel l) := by
  simp [branch, h]

theorem evalOperand_of_hasItsField {s : State} {a : Operand} (h : HasItsField s a) : ∃ v, evalOperand s a = .ok v := by
  cases ha : evalOperand s a with
  | ok v => exact ⟨v, rfl⟩
  | error e =>
    obtain ⟨r, f, resp, rfl, hr, hf, -⟩ := evalOperand_eq_error ha
    exact absurd hf (h r f resp rfl hr)

/-- Settles O58: an operand whose field is there has a value, and the line runs on every value. -/
theorem sendAndBranchesRunOnEveryOperand : Obligations.SendAndBranchesRunOnEveryOperand := by
  intro s a b l p n hp
  refine ⟨fun ht ha hx => ?_, fun ha hb hl hx => ?_, fun hl hx => ?_, fun hl hx => ?_⟩
  · obtain ⟨v, hv⟩ := evalOperand_of_hasItsField ha
    exact ⟨_, _, step_send hp ht hx hv, rfl, rfl, ⟨rfl, rfl, rfl, rfl⟩, rfl, rfl, rfl⟩
  · obtain ⟨x, hxa⟩ := evalOperand_of_hasItsField ha
    obtain ⟨y, hyb⟩ := evalOperand_of_hasItsField hb
    rw [step_beq hp hx hxa hyb]
    exact branch_goes_on _ hl
  · obtain ⟨c, hc⟩ := hostBokResponse_eq_branch n l s
    rw [step_bokResponse hp hx, hc]
    exact branch_goes_on c hl
  · rw [step_bokRead hp hx]
    exact branch_goes_on _ hl

/-! ### Refusals -/

theorem resultField_encoded_eq_none_iff (f : ResultField) (w : Word16) (b0 b1 : Byte) :
    resultField (.encoded w b0 b1) f = none ↔ f ∉ [.status, .wordOut, .bytesOut, .bytesOutAt 0, .bytesOutAt 1] := by
  cases f with
  | bytesOutAt k => revert k; simp [Fin.forall_fin_two, resultField]
  | _ => simp [resultField]

theorem resultField_decoded_eq_none_iff (f : ResultField) (d : Decoded) :
    resultField (.decoded d) f = none ↔ f ∉ [.status, .idOut, .commandOut, .payloadOut, .commandClass] := by
  cases f <;> simp [resultField]

theorem resultField_parsed_eq_none_iff (f : ResultField) (rep : Report) :
    resultField (.parsed rep) f = none ↔ f ∉ [.status, .report] ∧ ∀ g, f ≠ .reportField g := by
  cases f <;> simp [resultField]

theorem resultField_lengthError_eq_none_iff (f : ResultField) (n : Nat) :
    resultField (.lengthError n) f = none ↔ f ∉ [.status, .lenSeen] := by
  cases f <;> simp [resultField]

/-- R22: a read, a byte sequence, a command class and a report have no place on a port. -/
theorem portValue_of_no_number {s : State} {x : Operand} (place w : Nat)
    (h : (∃ t, x = .read t) ∨ (∃ r f bs, x = .result r f ∧ evalOperand s x = .ok (.bytes bs)) ∨
      (∃ r f c, x = .result r f ∧ evalOperand s x = .ok (.cls c)) ∨
      (∃ r f rep, x = .result r f ∧ evalOperand s x = .ok (.report rep))) :
    portValue s place w x = .error .wrongKind := by
  rcases h with ⟨t, rfl⟩ | ⟨r, f, bs, rfl, hv⟩ | ⟨r, f, c, rfl, hv⟩ | ⟨r, f, rep, rfl, hv⟩
  · rfl
  · exact portValue_wrongKind place w hv rfl (by simp)
  · exact portValue_wrongKind place w hv rfl (by simp)
  · exact portValue_wrongKind place w hv rfl (by simp)

/-- Settles O56: the value that is missing refuses the line that reads it, and a taken branch needs its label. -/
theorem hostLinesWithNoMeaningAreRefused : Obligations.HostLinesWithNoMeaningAreRefused := by
  intro s hp
  refine ⟨fun n f resp hr hf => ?_, fun m q x hx hread h => ?_, fun m name a b hx h => ?_,
    fun l hl => ⟨fun hx => ?_, fun n r hx hr hok => ?_, fun n k bs hx hr => ?_, fun a b x y hx ha hb hxy => ?_⟩,
    resultField_encoded_eq_none_iff, resultField_decoded_eq_none_iff, resultField_parsed_eq_none_iff,
    resultField_lengthError_eq_none_iff⟩
  · have heval := evalOperand_noSuchResult hr hf
    refine ⟨fun hx => ?_, fun b l hx => ?_, fun a v l hx ha => ?_, fun m q hx hread => ?_⟩
    · rw [step_of_line hp hx, hostLine, hostSend, heval, onValue]
    · rw [step_of_line hp hx, hostLine, hostBeq, heval, onValue]
    · rw [step_of_line hp hx, hostLine, hostBeq, ha, heval, onValue, onValue]
    · exact step_request_refused hp hx (formInstr_eq_error hread fun place => by rw [portValue, heval]; rfl)
  · exact step_request_refused hp hx (formInstr_eq_error hread fun place => portValue_of_no_number place _ h)
  · exact step_request_refused hp hx (formInstr_encn_of_no_entry a b h)
  · rw [step_jmp hp hx, branch_undefinedLabel hl]
  · rw [step_bokResponse hp hx, hostBokResponse, hr]
    simp only [hok]
    exact branch_undefinedLabel hl
  · rw [step_bokRead hp hx, readOf_of_get hr]
    exact branch_undefinedLabel hl
  · rw [step_beq hp hx ha hb, hxy]
    exact branch_undefinedLabel hl

/-! ### Sends -/

/-- A number of one byte goes on the line as that byte (log entry 15). -/
theorem lineBytes_byte (k : Nat) {a : Operand} (h : sendsOneByte a = true) (b : Byte) :
    lineBytes k a (.num b.toNat) = [b] := by
  simp [lineBytes, h, b.isLt]

/-- R65: the report fields of 8 bits, with the byte of each. -/
def byteFields (rep : Report) : List (ReportField × Byte) :=
  [(.startOfFrame, rep.startOfFrame), (.bitErrorRate, rep.bitErrorRate), (.signalPower, rep.signalPower),
    (.noisePower, rep.noisePower), (.packetInvalid, rep.packetInvalid), (.firmwareVersion, rep.firmwareVersion),
    (.endOfFrame, rep.endOfFrame)]

theorem reportField_of_mem_byteFields (rep : Report) :
    ∀ e ∈ byteFields rep, reportFieldIsByte e.1 = true ∧ reportField rep e.1 = e.2.toNat := by
  simp [byteFields, reportFieldIsByte, reportField]

/-- Settles O50: the operand has its value, and `lineBytes` of that value is the list named. -/
theorem sendPutsBytesOnTheLine : Obligations.SendPutsBytesOnTheLine := by
  intro s a bs hp ht hx h
  suffices hv : ∃ v, evalOperand s a = .ok v ∧ lineBytes s.lineCount a v = bs by
    obtain ⟨v, hv, rfl⟩ := hv
    exact ⟨_, step_send hp ht hx hv, rfl, rfl, rfl, rfl⟩
  rcases h with ⟨r, w, b0, b1, rfl, hr, rfl⟩ | ⟨r, w, b0, b1, rfl, hr, rfl⟩ | ⟨t, k, rfl, hr⟩ | ⟨b, rfl, rfl⟩ |
    ⟨r, w, b0, b1, b, hr, ⟨rfl, rfl⟩ | ⟨rfl, rfl⟩, rfl⟩ | ⟨r, rep, f, b, rfl, hr, hfb, rfl⟩
  · exact ⟨_, evalOperand_result hr rfl, rfl⟩
  · exact ⟨_, evalOperand_result hr rfl, rfl⟩
  · exact ⟨_, evalOperand_read hr, rfl⟩
  · exact ⟨_, rfl, lineBytes_byte _ rfl b⟩
  · exact ⟨_, evalOperand_result hr rfl, lineBytes_byte _ rfl b⟩
  · exact ⟨_, evalOperand_result hr rfl, lineBytes_byte _ rfl b⟩
  · obtain ⟨hbyte, hfield⟩ := reportField_of_mem_byteFields rep _ hfb
    have hsend : sendsOneByte (.result r (.reportField f)) = true := hbyte
    exact ⟨.num b.toNat, evalOperand_result hr (by rw [resultField, hfield]), lineBytes_byte _ hsend b⟩

end Sys2Proof.Machine
end

section
/-! The command sequencer (45_transport_boundary.md R90 to R95): its command bytes, its bounds checks, and its open scripts. -/

namespace Sys2Proof.Machine

/-- Settles O52: the constants as they stand. -/
theorem sequencerCommandBytes : Obligations.SequencerCommandBytes :=
  ⟨rfl, rfl, rfl, rfl⟩

/-- R91: the channels that have no argument byte. -/
theorem channelByte_of_out_of_range {k : Nat} (h : k = 0 ∨ 12 < k) : channelByte k = none := by
  rw [channelByte, if_neg (by omega), if_neg (by omega)]

/-- R92: the power levels that have no argument byte. -/
theorem powerByte_of_out_of_range {p : Nat} (h : p = 0 ∨ 4 < p) : powerByte p = none := by
  rw [powerByte, if_neg (by omega)]

theorem channelByte_digit {k : Nat} (h : 1 ≤ k ∧ k ≤ 9) : channelByte k = some (BitVec.ofNat 8 (0x30 + k)) :=
  if_pos h

theorem channelByte_letter {k : Nat} (h : 10 ≤ k ∧ k ≤ 12) :
    channelByte k = some (BitVec.ofNat 8 (0x61 + (k - 10))) := by
  rw [channelByte, if_neg (by omega), if_pos h]

theorem powerByte_digit {p : Nat} (h : 1 ≤ p ∧ p ≤ 4) : powerByte p = some (BitVec.ofNat 8 (0x30 + p)) :=
  if_pos h

/-- Settles O53: each range has its byte, which fits 8 bits. -/
theorem sequencerArgumentBytes : Obligations.SequencerArgumentBytes := by
  intro k
  refine ⟨fun hlo hhi => ⟨_, channelByte_digit ⟨hlo, hhi⟩, ?_⟩, fun hlo hhi => ⟨_, channelByte_letter ⟨hlo, hhi⟩, ?_⟩,
    channelByte_of_out_of_range, fun hlo hhi => ⟨_, powerByte_digit ⟨hlo, hhi⟩, ?_⟩, powerByte_of_out_of_range⟩
  all_goals exact (BitVec.toNat_ofNat ..).trans (Nat.mod_eq_of_lt (by omega))

/-- Settles O54: the bounds check fails, as the argument has no byte. -/
theorem outOfRangeSequencerArgumentsDoNothing : Obligations.OutOfRangeSequencerArgumentsDoNothing := by
  intro s k hp
  refine ⟨fun hk hx => step_sequencer_ignored hp hx ?_, fun hk hx => step_sequencer_ignored hp hx ?_⟩
  · rw [sequencerAccepts, channelByte_of_out_of_range hk]; rfl
  · rw [sequencerAccepts, powerByte_of_out_of_range hk]; rfl

/-- R91, R92: an argument in range passes the bounds check. -/
theorem sequencerAccepts_of_in_range {op : SeqOp} {arg : Nat} (hchannel : op = .channelSelect → 1 ≤ arg ∧ arg ≤ 12)
    (hpower : op = .powerLevel → 1 ≤ arg ∧ arg ≤ 4) : sequencerAccepts op arg = true := by
  cases op with
  | modeSwitch => rfl
  | reportRequest => rfl
  | channelSelect =>
    obtain ⟨hlo, hhi⟩ := hchannel rfl
    rcases le_or_gt arg 9 with h9 | h9
    · rw [sequencerAccepts, channelByte_digit ⟨hlo, h9⟩]; rfl
    · rw [sequencerAccepts, channelByte_letter ⟨h9, hhi⟩]; rfl
  | powerLevel => rw [sequencerAccepts, powerByte_digit (hpower rfl)]; rfl

/-- Settles O55: the line is accepted, and a script of sends and waits changes the line and the clock alone. -/
theorem acceptedSequencerOperationsRunTheirScript : Obligations.AcceptedSequencerOperationsRunTheirScript := by
  intro s op arg hp ht hx hchannel hpower
  refine ⟨_, step_sequencer hp ht hx (sequencerAccepts_of_in_range hchannel hpower), ?_⟩
  rw [runActions_eq]
  exact ⟨rfl, rfl, rfl, ⟨rfl, rfl, rfl, rfl⟩, rfl, rfl⟩

end Sys2Proof.Machine
end

section
/-! The transport's reads and the report read (45_transport_boundary.md R87, R88, R94; D15, D16, D18). The retry loop's outcome
and time are one equation, from which a listed draw has its outcome; the report read is its lines' steps in a row. -/

namespace Sys2Proof.Machine

/-! ### Reads -/

/-- R88: the loop succeeds when the bytes are there within the retries, and sleeps once for each retry made. -/
theorem pollLoop_eq (pollMs maxRetries needed : Nat) :
    pollLoop pollMs maxRetries needed = (decide (needed ≤ maxRetries), min needed maxRetries * pollMs) := by
  induction maxRetries generalizing needed with
  | zero => cases needed <;> simp [pollLoop]
  | succ r ih => cases needed <;> simp [pollLoop, ih, Nat.add_min_add_right, Nat.succ_mul]

/-- Settles O48: both components of `pollLoop_eq`. -/
theorem retryLoopIsBounded : Obligations.RetryLoopIsBounded := by
  intro pollMs maxRetries needed
  rw [pollLoop_eq]
  exact ⟨decide_eq_true_iff, rfl⟩

section
variable {s : State} {d : Draw} {rest : List Draw} (h : s.draws = d :: rest)
include h

/-- A listed draw that comes within MAX_RETRIES retries gives its bytes. -/
theorem readOutcome_of_listed_in_time {k : Nat} (hd : d.retries ≤ s.cfg.maxRetries) (hk : d.bytes.length = k) :
    readOutcome k s = .bytes d.bytes := by
  subst hk
  simp [readOutcome, nextDraw, h, pollLoop_eq, hd, drawBytes_full]

/-- A listed draw that needs more than MAX_RETRIES retries times out. -/
theorem readOutcome_of_listed_too_late (k : Nat) (hd : s.cfg.maxRetries < d.retries) :
    readOutcome k s = .timeoutError := by
  simp [readOutcome, nextDraw, h, pollLoop_eq, hd]

end

/-- Settles O46: the variable is bound to the read's outcome, which is whole. -/
theorem readIsWholeOrTimesOut : Obligations.ReadIsWholeOrTimesOut := by
  intro s n k hp ht hx
  refine ⟨_, step_read hp ht hx, by simp, by simp, ?_⟩
  cases hread : readOutcome k s with
  | timeoutError => exact .inl (Vars.get_set_same _ _ _)
  | bytes bs => exact .inr ⟨bs, readOutcome_whole k s hread, Vars.get_set_same _ _ _⟩

/-- A read line binds its variable to the outcome that the draw gives. -/
theorem step_read_binds {s : State} {n k : Nat} {x : ReadResult} (hp : s.pending = none) (ht : s.serial ≠ none)
    (hx : s.script[s.pos]? = some (.read n k)) (hread : readOutcome k s = x) :
    ∃ t, step s = .next t ∧ Vars.get t.tvars n = some { asked := k, result := x } :=
  ⟨_, step_read hp ht hx, hread ▸ Vars.get_set_same _ _ _⟩

/-- Settles O47: the bytes listed with no retry, and a draw one retry too late. -/
theorem everyReadOutcomeIsPossible : Obligations.EveryReadOutcomeIsPossible := by
  intro s n k hp ht hx
  refine ⟨fun bs hbs => step_read_binds hp ht hx ?_, step_read_binds hp ht hx ?_⟩
  · exact readOutcome_of_listed_in_time (d := ⟨0, bs⟩) rfl (Nat.zero_le _) hbs
  · exact readOutcome_of_listed_too_late rfl k (Nat.lt_succ_self _)

/-! ### The report read -/

/-- The state after the report read's send. -/
def reportRequested (s : State) : State :=
  (s.putOnLine [0x72#8]).advance

/-- The state after the report read's read, which had the outcome `x`. -/
def frameRead (n : Nat) (x : ReadResult) (s : State) : State :=
  ((afterRead (reportRequested s)).bindRead n { asked := 18, result := x }).advance

section
variable (n : Nat) (x : ReadResult) (s : State)

@[simp] theorem frameRead_cfg : (frameRead n x s).cfg = s.cfg := by
  simp [frameRead, reportRequested]

@[simp] theorem frameRead_pending : (frameRead n x s).pending = s.pending := by
  simp [frameRead, reportRequested]

@[simp] theorem frameRead_response : (frameRead n x s).response = s.response := by
  simp [frameRead, reportRequested]

@[simp] theorem frameRead_holder : (frameRead n x s).holder = s.holder := by
  simp [frameRead, reportRequested]

@[simp] theorem frameRead_script : (frameRead n x s).script = s.script := by
  simp [frameRead, reportRequested]

@[simp] theorem frameRead_pos : (frameRead n x s).pos = s.pos + 2 := by
  simp [frameRead, reportRequested]

@[simp] theorem frameRead_rvars : (frameRead n x s).rvars = s.rvars := by
  simp [frameRead, reportRequested]

@[simp] theorem frameRead_sent : (frameRead n x s).sent = s.sent ++ [0x72#8] := by
  simp [frameRead, reportRequested]

@[simp] theorem frameRead_draws : (frameRead n x s).draws = s.draws.tail := by
  simp [frameRead, reportRequested]

theorem frameRead_tvars : Vars.get (frameRead n x s).tvars n = some { asked := 18, result := x } :=
  Vars.get_set_same _ _ _

end

section
variable {s : State} {n r got done : Nat} (hs : s.script = reportReadLines n r got done)
include hs

theorem findLabel_reportRead_got : findLabel s got = some 4 := by
  simp [findLabel, hs, reportReadLines, List.findIdx?_cons]

theorem findLabel_reportRead_done (hne : got ≠ done) : findLabel s done = some 6 := by
  simp [findLabel, hs, reportReadLines, List.findIdx?_cons, hne]

/-- The line of the report read at a position. -/
theorem reportRead_line {k : Nat} {x : Line} (hpos : s.pos = k) (hx : (reportReadLines n r got done)[k]? = some x) :
    s.script[s.pos]? = some x := by
  rw [hs, hpos, hx]

theorem reportRequested_line (hpos : s.pos = 0) :
    (reportRequested s).script[(reportRequested s).pos]? = some (.read n 18) :=
  reportRead_line (s := reportRequested s) hs (congrArg (· + 1) hpos) rfl

variable (hp : s.pending = none)
include hp

/-- R94: the report-request byte goes on the line. -/
theorem reportRead_sends (ht : s.serial ≠ none) (hpos : s.pos = 0) : step s = .next (reportRequested s) := by
  rw [step_send hp ht (reportRead_line hs hpos rfl) rfl]
  rfl

theorem reportRead_reads {x : ReadResult} (k : Nat) (ht : s.serial ≠ none) (hpos : s.pos = 0)
    (hx : readOutcome 18 (reportRequested s) = x) :
    Sys2Proof.core.run (k + 2) s = Sys2Proof.core.run k (frameRead n x s) := by
  have hread := step_read (s := reportRequested s) hp ht (reportRequested_line hs hpos)
  rw [hx] at hread
  rw [core_run_succ (reportRead_sends hs hp ht hpos), core_run_succ hread]
  rfl

/-- The report read from its PARSE on. -/
theorem reportRead_parses_at {k : Nat} {bs : List Byte} (hwf : s.cfg.layout.wf = true) (hpos : s.pos = 5)
    (hread : Vars.get s.tvars n = some { asked := k, result := .bytes bs }) :
    Sys2Proof.core.run 3 s = .next ((s.issue (some r) (encode (.parse bs))).advance.deliver (parseResponse bs)).advance := by
  have hparse : step s = .next (s.issue (some r) (encode (.parse bs))).advance :=
    step_request hp (reportRead_line hs hpos rfl) (formInstr_parseRead_bytes (readOf_of_get hread))
  have hserve : step (s.issue (some r) (encode (.parse bs))).advance = .next
      ((s.issue (some r) (encode (.parse bs))).advance.deliver (parseResponse bs)) := step_issued _ _ hwf
  have hlabel := reportRead_line (s := (s.issue (some r) (encode (.parse bs))).advance.deliver (parseResponse bs)) hs
    (congrArg (· + 1) hpos) rfl
  have hdone := step_label rfl hlabel
  rw [core_run_succ hparse, core_run_succ hserve, core_run_succ hdone]
  rfl

/-- After a read that returned its bytes the host goes to `got`, PARSE is served, and the script ends after `done`. -/
theorem reportRead_parses {k : Nat} {bs : List Byte} (hwf : s.cfg.layout.wf = true) (hpos : s.pos = 2)
    (hread : Vars.get s.tvars n = some { asked := k, result := .bytes bs }) :
    Sys2Proof.core.run 5 s = .next
      (((s.goto 4).advance.issue (some r) (encode (.parse bs))).advance.deliver (parseResponse bs)).advance := by
  have hbok : step s = .next (s.goto 4) := by
    rw [step_bokRead hp (reportRead_line hs hpos rfl), readOf_of_get hread,
      branch_of_label _ (findLabel_reportRead_got hs)]
    rfl
  have hgot : step (s.goto 4) = .next (s.goto 4).advance := step_label hp (reportRead_line (s := s.goto 4) hs rfl rfl)
  rw [core_run_succ hbok, core_run_succ hgot]
  exact reportRead_parses_at (s := (s.goto 4).advance) hs hp hwf rfl hread

/-- After a read that timed out the host goes to `done`, past the PARSE. -/
theorem reportRead_skips {k : Nat} (hne : got ≠ done) (hpos : s.pos = 2)
    (hread : Vars.get s.tvars n = some { asked := k, result := .timeoutError }) :
    Sys2Proof.core.run 3 s = .next ((s.goto 3).goto 6).advance := by
  have hbok : step s = .next (s.goto 3) := by
    rw [step_bokRead hp (reportRead_line hs hpos rfl), readOf_of_get hread,
      branch_of_label _ (findLabel_reportRead_got hs), hpos]
    rfl
  have hjmp : step (s.goto 3) = .next ((s.goto 3).goto 6) := by
    rw [step_jmp (s := s.goto 3) hp (reportRead_line (s := s.goto 3) hs rfl rfl),
      branch_of_label (s := s.goto 3) _ (findLabel_reportRead_done hs hne)]
    rfl
  have hdone : step ((s.goto 3).goto 6) = .next ((s.goto 3).goto 6).advance :=
    step_label hp (reportRead_line (s := (s.goto 3).goto 6) hs rfl rfl)
  rw [core_run_succ hbok, core_run_succ hjmp, core_run_succ hdone]
  rfl

end

/-- Settles O49: the send and the read, and then the rest of the script by the read's outcome. -/
theorem reportReadParsesOrLeavesTheHolder : Obligations.ReportReadParsesOrLeavesTheHolder := by
  intro s n r got done hwf hp ht hne hs hpos
  have hpos₂ (x : ReadResult) : (frameRead n x s).pos = 2 := by rw [frameRead_pos, hpos]
  have hs₂ (x : ReadResult) := (frameRead_script n x s).trans hs
  have hp₂ (x : ReadResult) := (frameRead_pending n x s).trans hp
  refine ⟨_, reportRead_sends hs hp ht hpos, rfl, reportRequested_line hs hpos, fun bs hbs => ?_, fun htimeout => ?_,
    fun k bs rest hdraws => ⟨?_, ?_⟩⟩
  · have hlen : bs.length = 18 := readOutcome_whole 18 _ hbs
    have hrun := (reportRead_reads hs hp 5 ht hpos hbs).trans
      (reportRead_parses (hs₂ _) (hp₂ _) ((frameRead_cfg n _ s).symm ▸ hwf) (hpos₂ _) (frameRead_tvars n _ s))
    refine ⟨hlen, _, _, reportOf bs, hrun, exec_parse_of_length_eq hwf hlen, rfl, ?_⟩
    simp [hlen, holderAfter, bindResponse]
  · have hrun := (reportRead_reads hs hp 3 ht hpos htimeout).trans
      (reportRead_skips (hs₂ _) (hp₂ _) hne (hpos₂ _) (frameRead_tvars n _ s))
    refine ⟨_, hrun, ?_⟩
    simp
  · exact readOutcome_of_listed_in_time (s := reportRequested s) (d := ⟨k, bs⟩) hdraws
  · exact readOutcome_of_listed_too_late (s := reportRequested s) (d := ⟨k, bs⟩) hdraws 18

end Sys2Proof.Machine
end
